-- ==== Sys2Proof/Word.lean ====
section
/-! DEFINITION. The value types of the spec (00_scope R7): a byte is an unsigned 8-bit value, `uN` an unsigned N-bit value. -/

namespace Sys2Proof

/-- A byte: u8 (R7). -/
abbrev Byte := BitVec 8

/-- A tag identifier (EPC): 12 raw bytes in index order, not a number (10_state R33, 20_memory R53). -/
abbrev Tag := Vector Byte 12

end Sys2Proof
end

