-- ==== Sys2Proof/Config.lean ====
section
/-! DEFINITION. The parameters of an instance of the block and the constants of the spec (00_scope R5). -/

namespace Sys2Proof

/-- The implementation parameters of 00_scope R5, fixed when the block is instantiated (10_state R34). The constraints are part
of the type: an instance outside them is not specified and cannot be built (93_implementation_defined I14). Log 1. -/
structure Params where
  /-- `CAP`, frame buffer capacity in bytes. -/
  cap : Nat
  /-- `REG_CAP`, tag registry capacity in entries. -/
  regCap : Nat
  /-- `Q_CAP`, publish queue capacity in entries. -/
  qCap : Nat
  /-- `CLOCK_W`, width of the clock operand `now` in bits. -/
  clockW : Nat
  /-- `TIMEOUT`, disappearance timeout in clock ticks. -/
  timeout : Nat
  /-- `FLUSH_INTERVAL`, flush and sweep cadence in clock ticks. -/
  flushInterval : Nat
  cap_min : 29 ≤ cap
  clockW_pos : 1 ≤ clockW
  timeout_lt : timeout < 2 ^ clockW
  flushInterval_lt : flushInterval < 2 ^ clockW
  deriving DecidableEq, Repr

namespace Config

/-- First start marker byte, `S0` (R5). -/
def s0 : Byte := 0xA5
/-- Second start marker byte, `S1` (R5). -/
def s1 : Byte := 0x5A
/-- First end marker byte, `E0` (R5). -/
def e0 : Byte := 0x0D
/-- Second end marker byte, `E1` (R5). -/
def e1 : Byte := 0x0A
/-- `OP_TAG_SEEN` (R5, R80). -/
def opTagSeen : Byte := 0x83
/-- `OP_STOP_ACK` (R5, R80). -/
def opStopAck : Byte := 0x8D
/-- `STOP_OK`, the success byte of a stop-acknowledgement (R5, R166). -/
def stopOk : Byte := 0x01
/-- `PMAX` in dBm (R5, R163). -/
def pMax : Int := -30
/-- `PMIN` in dBm (R5, R163). -/
def pMin : Int := -80

/-- `TIMEOUT` of the instance that `State.reset` describes: an OPEN parameter (92_eei_decisions D19), so a constant with no value
anyone can compute. Log 2. -/
opaque timeout : BitVec 32

/-- `FLUSH_INTERVAL` of the instance that `State.reset` describes: an OPEN parameter (D20). Log 2. -/
opaque flushInterval : BitVec 32

/-- The instance that `State.reset` describes: the reference sizes of R5 and D18, and the two open parameters left open.
DESIGN CHOICE (log 2), unsafe for a claim about `State.reset` alone; every other claim is about every instance. -/
def reference : Params where
  cap := 256
  regCap := 100
  qCap := 100
  clockW := 32
  timeout := timeout.toNat
  flushInterval := flushInterval.toNat
  cap_min := by decide
  clockW_pos := by decide
  timeout_lt := timeout.isLt
  flushInterval_lt := flushInterval.isLt

end Config

end Sys2Proof
end

