-- ==== Sys2Proof/Syntax.lean ====
section
/-! DEFINITION. Instructions: one constructor for each of the 19 rows of spec/opcode_table.json, with the operands its rule names.
Four are host commands (30_encoding R75), three are the decoders that a frame's opcode byte selects (R80), twelve are internal
operations with no encoding (R84). -/

namespace Sys2Proof

/-- The decoded tag-seen record (10_state R33): raw, exact values. -/
structure Report where
  /-- message type -/
  opcode : Byte
  /-- frame[5..6], the source's product code -/
  product : BitVec 16
  /-- frame[7..18] -/
  tag : Tag
  /-- frame[19..20], the source's RSSI code -/
  rssiRaw : BitVec 16
  /-- frame[21] -/
  ant : Byte
  /-- frame[22..24]; the frequency in MHz is `freqKHz / 1000` (R168) -/
  freqKHz : BitVec 24
  /-- frame[25] -/
  phase : Byte
  /-- five times the signal-strength percentage, exact (R163); the spec's int32, whose range -64735..800 never wraps (log 10) -/
  strength5 : Int
  deriving DecidableEq, Repr

/-- One word on the host command port with the clock reading presented beside it (R75). -/
structure Command where
  /-- `cmd[9:0]` -/
  word : BitVec 10
  /-- the clock value; the port has `CLOCK_W` wires, so the decoder takes its low `CLOCK_W` bits (log 5) -/
  now : Nat
  deriving DecidableEq, Repr

/-- One constructor per row of spec/opcode_table.json. -/
inductive Instr where
  /-- RESET (R101); `data` and `now` of its word are ignored. -/
  | reset
  /-- BYTE (R102). -/
  | byte (b : Byte) (now : Nat)
  /-- CHECK (R103); `data` of its word is ignored. -/
  | check (now : Nat)
  /-- RESERVED_OP3, `op = 11` (R76): spells no command. -/
  | reservedOp3
  /-- TAG_SEEN, the operation DEC_TAG_SEEN (R162). -/
  | tagSeen (now : Nat)
  /-- STOP_ACK, the operation DEC_STOP_ACK (R166). -/
  | stopAck
  /-- OTHER, the operation DEC_OTHER (R167), with the opcode byte that selected it. -/
  | other (opcode : Byte)
  /-- START(b) (R120). -/
  | start (b : Byte)
  /-- END(now) (R121). -/
  | endFrame (now : Nat)
  /-- END_OVF() (R122). -/
  | endOvf
  /-- ACC_OVF(b) (R125). -/
  | accOvf (b : Byte)
  /-- ACC(b) (R124). -/
  | acc (b : Byte)
  /-- DISCARD(b) (R126). -/
  | discard (b : Byte)
  /-- VALIDATE(now) (R140). -/
  | validate (now : Nat)
  /-- DISPATCH(now) (R160). -/
  | dispatch (now : Nat)
  /-- OBSERVE(tag, ant, now) (R190). -/
  | observe (tag : Tag) (ant : Byte) (now : Nat)
  /-- ENQUEUE(r) (R210). -/
  | enqueue (r : Report)
  /-- DRAIN() (R213). -/
  | drain
  /-- SWEEP(now) (R194). -/
  | sweep (now : Nat)
  deriving DecidableEq, Repr

/-- The format column of spec/opcode_table.json. -/
inductive Format where
  | hostCmd
  | frameOpcode
  | internal
  deriving DecidableEq, Repr

/-- The row's format (30_encoding R70, R84). -/
def Instr.format : Instr → Format
  | .reset | .byte _ _ | .check _ | .reservedOp3 => .hostCmd
  | .tagSeen _ | .stopAck | .other _ => .frameOpcode
  | .start _ | .endFrame _ | .endOvf | .accOvf _ | .acc _ | .discard _ | .validate _ | .dispatch _ | .observe _ _ _
  | .enqueue _ | .drain | .sweep _ => .internal

end Sys2Proof
end

