-- ==== Sys2Proof/WellFormed.lean ====
section
/-! DEFINITION. Which instructions the spec's operand widths and triggers admit, as a Boolean check. -/

namespace Sys2Proof

/-- A clock operand fits the port's `CLOCK_W` wires (30_encoding R75). -/
def clockFits (clockW now : Nat) : Bool := decide (now < 2 ^ clockW)

/-- A report as 10_state R33 types it: its opcode is `OP_TAG_SEEN` and `strength5` is in -64735..800. -/
def Report.wf (r : Report) : Bool :=
  decide (r.opcode = Config.opTagSeen) && decide (-64735 ≤ r.strength5) && decide (r.strength5 ≤ 800)

/-- Well-formed instructions of an instance with clock width `clockW`: clock operands fit the port (R75), START's byte is `S1`
(R120), OTHER's opcode is neither of the two the block decodes (R167), ENQUEUE's report is a tag-seen report (R33). -/
def Instr.wf (clockW : Nat) : Instr → Bool
  | .reset => true
  | .byte _ now => clockFits clockW now
  | .check now => clockFits clockW now
  | .reservedOp3 => true
  | .tagSeen now => clockFits clockW now
  | .stopAck => true
  | .other op => decide (op ≠ Config.opTagSeen) && decide (op ≠ Config.opStopAck)
  | .start b => decide (b = Config.s1)
  | .endFrame now => clockFits clockW now
  | .endOvf => true
  | .accOvf _ => true
  | .acc _ => true
  | .discard _ => true
  | .validate now => clockFits clockW now
  | .dispatch now => clockFits clockW now
  | .observe _ _ now => clockFits clockW now
  | .enqueue r => r.wf
  | .drain => true
  | .sweep now => clockFits clockW now

end Sys2Proof
end

