-- ==== Sys2Proof/Decode.lean ====
section
/-! DEFINITION. The decoders of the block's two encodings (30_encoding R70), and after them the encoders, written from the same
tables: the host command word (R75, R83) and the reader-module frame (R71 to R74, R77, R78, R80). Both decoders are total; the
reserved command word decodes to the row that refuses it by name, `RESERVED_OP3` (R76). -/

namespace Sys2Proof

/-! ### The host command port -/

/-- `op = cmd[9:8]` (R75). -/
def Command.op (c : Command) : BitVec 2 := c.word.extractLsb' 8 2

/-- `data = cmd[7:0]` (R75). -/
def Command.data (c : Command) : Byte := c.word.extractLsb' 0 8

/-- `now[CLOCK_W-1:0]`: the port carries `CLOCK_W` bits (R75). Log 5. -/
def Command.clock (clockW : Nat) (c : Command) : Nat := c.now % 2 ^ clockW

/-- The command a word spells (R75, R83). -/
def decodeCommand (clockW : Nat) (c : Command) : Instr :=
  if c.op = 0 then .reset
  else if c.op = 1 then .byte c.data (c.clock clockW)
  else if c.op = 2 then .check (c.clock clockW)
  else .reservedOp3

/-! ### The opcode byte of a frame -/

/-- The decoder that the opcode byte `buf[4]` selects, by exact match on all 8 bits (R80). `now` is the clock operand of the BYTE
command that completed the frame. -/
def decodeOpcode (op : Byte) (now : Nat) : Instr :=
  if op = Config.opTagSeen then .tagSeen now
  else if op = Config.opStopAck then .stopAck
  else .other op

/-! ### The words of spec/opcode_table.json -/

/-- What the decoders read from a table row's bits: a row of one byte is a frame opcode byte, read with the clock operand 0; a
longer row is a command word in the low 10 bits of a 16-bit word, followed by the clock operand. The port has no wires for bits
10 to 15 (log 5). -/
def decodeTableWord (nbits w : Nat) : Option Instr :=
  if nbits = 0 then none
  else if nbits ≤ 8 then some (decodeOpcode (BitVec.ofNat 8 w) 0)
  else some (decodeCommand 32 ⟨BitVec.ofNat 10 w, w >>> 16⟩)

/-! ### Encoders -/

/-- What an instruction is spelled as, where it has an encoding. -/
inductive Encoded where
  | command (c : Command)
  | opcode (op : Byte)
  deriving DecidableEq, Repr

/-- The command word with the given `op` and `data` (R75). -/
def commandWord (op : BitVec 2) (data : Byte) : BitVec 10 := op ++ data

/-- The canonical spelling of an instruction (R83 for the commands, R80 for the opcodes); an internal operation has none (R84). -/
def encode : Instr → Option Encoded
  | .reset => some (.command ⟨commandWord 0 0, 0⟩)
  | .byte b now => some (.command ⟨commandWord 1 b, now⟩)
  | .check now => some (.command ⟨commandWord 2 0, now⟩)
  | .reservedOp3 => some (.command ⟨commandWord 3 0, 0⟩)
  | .tagSeen _ => some (.opcode Config.opTagSeen)
  | .stopAck => some (.opcode Config.opStopAck)
  | .other op => some (.opcode op)
  | .start _ => none
  | .endFrame _ => none
  | .endOvf => none
  | .accOvf _ => none
  | .acc _ => none
  | .discard _ => none
  | .validate _ => none
  | .dispatch _ => none
  | .observe _ _ _ => none
  | .enqueue _ => none
  | .drain => none
  | .sweep _ => none

/-- What an encoding spells on an instance of clock width `clockW`, the frame opcodes with the clock operand `now`. -/
def decodeEncoded (clockW now : Nat) : Encoded → Instr
  | .command c => decodeCommand clockW c
  | .opcode op => decodeOpcode op now

/-- The `n` big-endian bytes of a value (20_memory R53). -/
def beBytes : Nat → Nat → List Byte
  | 0, _ => []
  | n + 1, v => BitVec.ofNat 8 (v / 256 ^ n) :: beBytes n v

/-- The XOR fold of a byte sequence, from 0x00 (R78). -/
def xorBytes (bs : List Byte) : Byte := bs.foldl (· ^^^ ·) 0

/-- The bytes of a well-formed frame that the checksum covers: the two length bytes, the opcode and the payload (R71, R78). -/
def frameCovered (opcode : Byte) (payload : List Byte) : List Byte :=
  beBytes 2 (payload.length + 8) ++ opcode :: payload

/-- A well-formed frame (R71, R72, R78): start marker, data length equal to the frame length, opcode, payload, checksum, end
marker. -/
def frameBytes (opcode : Byte) (payload : List Byte) : List Byte :=
  [Config.s0, Config.s1] ++ frameCovered opcode payload ++ [xorBytes (frameCovered opcode payload), Config.e0, Config.e1]

/-- The payload of a tag-seen frame, indices 5 to 25 (R73). -/
def tagPayload (product : BitVec 16) (tag : Tag) (rssi : BitVec 16) (ant : Byte) (khz : BitVec 24) (phase : Byte) : List Byte :=
  beBytes 2 product.toNat ++ tag.toList ++ beBytes 2 rssi.toNat ++ [ant] ++ beBytes 3 khz.toNat ++ [phase]

/-- The 29 bytes of a tag-seen frame: `TAGFRAME` of R82, with the layout of R73. -/
def tagFrameBytes (product : BitVec 16) (tag : Tag) (rssi : BitVec 16) (ant : Byte) (khz : BitVec 24) (phase : Byte) : List Byte :=
  frameBytes Config.opTagSeen (tagPayload product tag rssi ant khz phase)

/-- The 9 bytes of a stop-acknowledgement frame: `STOPFRAME` of R82, with the layout of R74. -/
def stopFrameBytes (status : Byte) : List Byte := frameBytes Config.opStopAck [status]

/-! ### Trace notation (R82) and the host loop (40_host_step R109) -/

/-- `RESET`. -/
def traceReset : Command := ⟨commandWord 0 0, 0⟩

/-- `BYTE xx @ t`. -/
def traceByte (b : Byte) (t : Nat) : Command := ⟨commandWord 1 b, t⟩

/-- `CHECK @ t`. -/
def traceCheck (t : Nat) : Command := ⟨commandWord 2 0, t⟩

/-- `FRAME b0 b1 ... bn @ t`: one BYTE command for each byte. -/
def traceFrame (bs : List Byte) (t : Nat) : List Command := bs.map (traceByte · t)

/-- One iteration of the host loop (R109): the available bytes in arrival order, then one CHECK with the current clock reading. The
spec does not say which clock reading the BYTEs carry; that they carry the CHECK's is the model's. DESIGN CHOICE (log 17), unsafe for
a claim about an iteration built with this helper: an iteration in general is any list of BYTEs with clock readings of their own. -/
def hostIteration (bs : List Byte) (t : Nat) : List Command := traceFrame bs t ++ [traceCheck t]

end Sys2Proof
end

