-- ==== Sys2Proof/Machine/State.lean ====
section
/-! DEFINITION. The state of the block: every element of 10_state R20, the parameters of the instance, and the two ports. -/

namespace Sys2Proof.Machine

/-- Why a step can stop the machine. The spec has no fault (60_exceptions R230). -/
inductive Fault where
  /-- Raised by END, ACC, VALIDATE and a BYTE that takes END, where the frame buffer would be indexed outside `0 .. CAP-1`, which
  no rule does (00_scope R9, 41_frame_assembler R129). Safe: it is met only in states that the invariants of 10_state R36 and
  R123 exclude, so no run from reset meets it. Log 7. -/
  | bufferIndex
  deriving DecidableEq, Repr

/-- Why a command is refused. -/
inductive Refusal where
  /-- Raised by no instruction: every arm of `exec` has a meaning. -/
  | notModelled (mnemonic : String)
  /-- Raised by RESERVED_OP3: "A model gives it no meaning and refuses it" (30_encoding R76). Safe. Log 9. -/
  | reservedCommand
  deriving DecidableEq, Repr

/-- The kinds of publish event (40_host_step R107). -/
inductive PubKind where
  | seen
  | gone
  deriving DecidableEq, Repr

/-- The warning codes of 60_exceptions R232, by name; `WarnCode.code` gives the number on the port. -/
inductive WarnCode where
  | asmOverflow
  | asmResync
  | rejStart
  | rejEnd
  | rejLength
  | rejChecksum
  | regFull
  | queueFull
  deriving DecidableEq, Repr

/-- An output event (R107). -/
inductive Event where
  /-- `PUB(kind, tag, ant, strength5)` -/
  | pub (kind : PubKind) (tag : Tag) (ant : Byte) (strength5 : Int)
  /-- `WARN(code)` -/
  | warn (code : WarnCode)
  deriving DecidableEq, Repr

/-- An entry of the tag registry (10_state R29). `lastSeen` is a `CLOCK_W`-bit clock reading, held as a natural (log 11). -/
structure RegEntry where
  tag : Tag
  ant : Byte
  lastSeen : Nat
  deriving DecidableEq, Repr

/-- The frame buffer's contents: (index, byte) pairs in one canonical form (`Memory.wf`), an unlisted index reading
`Memory.unlisted`. Log 6. -/
abbrev Memory := List Host.Cell

/-- The whole state: the elements of 10_state R20 under their own names, the instance's parameters, and the two ports. -/
structure State where
  /-- The parameters of the instance (00_scope R5); no command changes them (10_state R34). Log 1. -/
  params : Params
  /-- `prev`, the previous input byte (R22). -/
  prev : Byte
  /-- `cursor`, the write cursor (R23). -/
  cursor : Nat
  /-- `asm`, a frame is in progress (R24). -/
  asm : Bool
  /-- `buf`, the frame buffer (R25). -/
  buf : Memory
  /-- `frameLen`, the length of the most recently completed frame (R26). -/
  frameLen : Nat
  /-- `stopAckValid` (R27). -/
  stopAckValid : Bool
  /-- `stopAckOk` (R27). -/
  stopAckOk : Bool
  /-- `lastFlush`, a `CLOCK_W`-bit clock reading (R28). Log 11. -/
  lastFlush : Nat
  /-- `reg`, the tag registry (R29). -/
  reg : List RegEntry
  /-- `q`, the publish queue (R31). -/
  q : List Report
  /-- The MODEL's own: every output event emitted so far, oldest first (00_scope R10). Log 3. -/
  out : List Event
  /-- The MODEL's own: the host commands issued and not yet taken, oldest first (30_encoding R75). Log 4. -/
  input : List Command
  deriving DecidableEq, Repr

/-- The reset table of 10_state R37, for an instance and for what its two ports hold. -/
def State.resetWith (p : Params) (out : List Event) (input : List Command) : State where
  params := p
  prev := 0x00
  cursor := 0
  asm := false
  buf := []
  frameLen := 0
  stopAckValid := false
  stopAckOk := false
  lastFlush := 0
  reg := []
  q := []
  out := out
  input := input

/-- Power-on (70_reset_and_hazards R260): the reset table, nothing emitted, no command issued. -/
def State.reset : State := State.resetWith Config.reference [] []

end Sys2Proof.Machine
end

