-- ==== Sys2Proof/Machine/Ops.lean ====
section
/-! DEFINITION. The primitives of 00_scope R9 and R10: the frame buffer's bytes and the output sequence. The block takes no
exceptions (60_exceptions R230, R235); what other machines have in their place is here `State.warn`, the one operation by which
every anomaly leaves the block. -/

namespace Sys2Proof.Machine

/-! ### The frame buffer -/

/-- What an unlisted index reads as: the reset contents of `buf` (10_state R37). -/
def Memory.unlisted : Byte := 0x00

/-- The byte at an index. -/
def Memory.get : Memory → Nat → Byte
  | [], _ => Memory.unlisted
  | (a, v) :: rest, i => if a = i then v else Memory.get rest i

/-- The cell a byte is stored as: none where the unlisted value says the same. -/
def Memory.cell (i : Nat) (v : Byte) (rest : Memory) : Memory := if v = Memory.unlisted then rest else (i, v) :: rest

/-- Store a byte, keeping the canonical form. -/
def Memory.set : Memory → Nat → Byte → Memory
  | [], i, v => Memory.cell i v []
  | (a, w) :: rest, i, v =>
    if i < a then Memory.cell i v ((a, w) :: rest)
    else if i = a then Memory.cell i v rest
    else (a, w) :: Memory.set rest i v

/-- Indices strictly rising from `lo`, all below `hi`, and no entry equal to the unlisted value. -/
def Memory.wfFrom : Nat → Nat → Memory → Bool
  | _, _, [] => true
  | lo, hi, (a, v) :: rest =>
    decide (lo ≤ a) && decide (a < hi) && decide (v ≠ Memory.unlisted) && Memory.wfFrom (a + 1) hi rest

/-- The canonical form of a frame buffer of `cap` bytes. -/
def Memory.wf (cap : Nat) (m : Memory) : Bool := Memory.wfFrom 0 cap m

/-- `buf[i]` (R9). -/
def State.read (s : State) (i : Nat) : Byte := s.buf.get i

/-- `buf[i] <- v` (R9). -/
def State.write (s : State) (i : Nat) (v : Byte) : State := { s with buf := s.buf.set i v }

/-- `MemRead(i, n)`: the big-endian value of the `n` buffer bytes from `i` (R9, 20_memory R53). -/
def State.memRead (s : State) (i : Nat) : Nat → Nat
  | 0 => 0
  | n + 1 => (s.read i).toNat * 256 ^ n + State.memRead s (i + 1) n

/-- Bytes written one after another from index `i`. -/
def State.writeBytes (s : State) (i : Nat) : List Byte → State
  | [] => s
  | b :: bs => (s.write i b).writeBytes (i + 1) bs

/-- The outcome of an operation whose accesses lie in the buffer exactly when `inside` holds: no rule indexes outside
`0 .. CAP-1` (R9), so such an access is a fault. Log 7. -/
def onBuffer (inside : Bool) (t : State) : Host.Outcome State Fault Refusal :=
  if inside then .next t else .fault .bufferIndex

/-! ### The output sequence -/

/-- Append events to the output sequence, in order (R10). -/
def State.emitAll (s : State) (evs : List Event) : State := { s with out := s.out ++ evs }

/-- `emit(ev)` (R10). -/
def State.emit (s : State) (ev : Event) : State := s.emitAll [ev]

/-- `warn(code)` (R10): the whole of what an anomaly does beside its rule's own state change (60_exceptions R235). -/
def State.warn (s : State) (code : WarnCode) : State := s.emit (.warn code)

/-- The number of a warning code on the port (60_exceptions R232). -/
def WarnCode.code : WarnCode → Byte
  | .asmOverflow => 1
  | .asmResync => 2
  | .rejStart => 3
  | .rejEnd => 4
  | .rejLength => 5
  | .rejChecksum => 6
  | .regFull => 7
  | .queueFull => 8

end Sys2Proof.Machine
end

