-- ==== Sys2Proof/Machine/Operands.lean ====
section
/-! DEFINITION. Operand assembly: the field values a frame's decoders read from the buffer (30_encoding R77), the RSSI transform
(43_field_decoder R163) and the keys of the caches (10_state R32). -/

namespace Sys2Proof.Machine

/-- `dataLength = MemRead(2, 2)` (R77). -/
def State.dataLength (s : State) : Nat := s.memRead 2 2

/-- `opcode = buf[4]` (R77). -/
def State.opcode (s : State) : Byte := s.read 4

/-- `product = MemRead(5, 2)` (R77). -/
def State.product (s : State) : BitVec 16 := BitVec.ofNat 16 (s.memRead 5 2)

/-- `tag = bytes(7, 18)`: 12 bytes in index order (R77). -/
def State.tag (s : State) : Tag := Vector.ofFn fun k => s.read (7 + k.val)

/-- `rssiRaw = MemRead(19, 2)` (R77). -/
def State.rssiRaw (s : State) : BitVec 16 := BitVec.ofNat 16 (s.memRead 19 2)

/-- `ant = buf[21]` (R77). -/
def State.ant (s : State) : Byte := s.read 21

/-- `freqKHz = MemRead(22, 3)` (R77). -/
def State.freqKHz (s : State) : BitVec 24 := BitVec.ofNat 24 (s.memRead 22 3)

/-- `phase = buf[25]` (R77). -/
def State.phase (s : State) : Byte := s.read 25

/-- `stopStatus = buf[5]` (R77). -/
def State.stopStatus (s : State) : Byte := s.read 5

/-- `mag = ((~raw) + 1) mod 2^16` (R163, at the one width R169 fixes; log 13). -/
def rssiMag (raw : BitVec 16) : BitVec 16 := ~~~raw + 1

/-- `strength5 = 800 - mag` (R163). -/
def strength5 (raw : BitVec 16) : Int := 800 - (rssiMag raw).toNat

/-- The report DEC_TAG_SEEN builds (R162). -/
def State.report (s : State) : Report where
  opcode := s.opcode
  product := s.product
  tag := s.tag
  rssiRaw := s.rssiRaw
  ant := s.ant
  freqKHz := s.freqKHz
  phase := s.phase
  strength5 := strength5 s.rssiRaw

/-- The key of a registry entry (R32). -/
def RegEntry.key (e : RegEntry) : Tag × Byte := (e.tag, e.ant)

/-- The key of a queued report (R32). -/
def keyOf (r : Report) : Tag × Byte := (r.tag, r.ant)

end Sys2Proof.Machine
end

