-- ==== Sys2Proof/Machine/Flags.lean ====
section
/-! DEFINITION. The block's conditions. It has no condition codes and no arithmetic flags (10_state R39); what its rules test is
here: the validator's checks (42_frame_validator R141 to R144), the clock arithmetic (40_host_step R105) with the two comparisons
that rest on it (R104, 44_tag_registry R195), the success bit of a stop-acknowledgement (R166), and the status outputs
(10_state R38). -/

namespace Sys2Proof.Machine

/-- `startOk()` (R141). -/
def State.startOk (s : State) : Bool := decide (s.read 0 = Config.s0) && decide (s.read 1 = Config.s1)

/-- `endOk(n)` for `n = frameLen` (R142). -/
def State.endOk (s : State) : Bool :=
  decide (s.read (s.frameLen - 2) = Config.e0) && decide (s.read (s.frameLen - 1) = Config.e1)

/-- `ci = dl - 3`, a signed integer (R140). -/
def State.checksumIndex (s : State) : Int := (s.dataLength : Int) - 3

/-- The length range check, `0 <= ci <= frameLen - 1` (R143). -/
def State.lengthOk (s : State) : Bool := decide (0 ≤ s.checksumIndex) && decide (s.checksumIndex < s.frameLen)

/-- The XOR fold, from 0x00, of `buf[i]` for `i` in `2 .. ci-1` (R144). -/
def State.xorFold (s : State) (ci : Nat) : Byte := xorBytes ((List.range' 2 (ci - 2)).map s.read)

/-- The checksum check, `acc = buf[ci]` (R144). -/
def State.checksumOk (s : State) : Bool :=
  decide (s.xorFold s.checksumIndex.toNat = s.read s.checksumIndex.toNat)

/-- The validator's verdict: the first failing check of R145's order, or none. -/
def State.verdict (s : State) : Option WarnCode :=
  if s.startOk = false then some .rejStart
  else if s.endOk = false then some .rejEnd
  else if s.lengthOk = false then some .rejLength
  else if s.checksumOk = false then some .rejChecksum
  else none

/-- `age(now, t) = (now - t) mod 2^CLOCK_W` (R105). -/
def age (clockW now t : Nat) : Nat := (((now : Int) - (t : Int)) % ((2 ^ clockW : Nat) : Int)).toNat

/-- The cadence comparator (R104). -/
def State.flushDue (s : State) (now : Nat) : Bool :=
  decide (s.params.flushInterval ≤ age s.params.clockW now s.lastFlush)

/-- A registry entry is stale at `now` when its age exceeds `TIMEOUT` (R195). -/
def stale (p : Params) (now : Nat) (e : RegEntry) : Bool := decide (p.timeout < age p.clockW now e.lastSeen)

/-- The success bit of a stop-acknowledgement: `buf[5] = STOP_OK` (R166). -/
def State.stopSuccess (s : State) : Bool := decide (s.stopStatus = Config.stopOk)

/-- The three level outputs (R38). -/
structure StatusOutputs where
  stopAckValid : Bool
  stopAckOk : Bool
  asm : Bool
  deriving DecidableEq, Repr

/-- Each level output equals the state element of its name at all times (R38). -/
def State.statusOutputs (s : State) : StatusOutputs := ⟨s.stopAckValid, s.stopAckOk, s.asm⟩

end Sys2Proof.Machine
end

