-- ==== Sys2Proof/Machine/PublishQueue.lean ====
section
/-! DEFINITION. The Publish Queue (45_publish_queue): ENQUEUE and DRAIN. -/

namespace Sys2Proof.Machine

/-- The linear scan of ENQUEUE: the first entry with the report's key replaced in place, or none where no entry has it (R210). -/
def replaceReport (r : Report) : List Report → Option (List Report)
  | [] => none
  | e :: es => if e.tag = r.tag ∧ e.ant = r.ant then some (r :: es) else (replaceReport r es).map (e :: ·)

/-- ENQUEUE (R210): replace in place (R211), append, or drop with QUEUE_FULL (R212). -/
def State.enqueue (r : Report) (s : State) : State :=
  match replaceReport r s.q with
  | some q' => { s with q := q' }
  | none => if s.q.length < s.params.qCap then { s with q := s.q ++ [r] } else s.warn .queueFull

/-- The event DRAIN emits for an entry (R213). -/
def seenEvent (r : Report) : Event := .pub .seen r.tag r.ant r.strength5

/-- DRAIN (R213): one PUB(SEEN) for each entry in list order, then the empty queue. -/
def State.drain (s : State) : State := { s.emitAll (s.q.map seenEvent) with q := [] }

/-- ENQUEUE applied directly (R84, R210). -/
def execEnqueue (r : Report) (s : State) : Host.Outcome State Fault Refusal := .next (s.enqueue r)

/-- DRAIN applied directly (R84, R213). -/
def execDrain (s : State) : Host.Outcome State Fault Refusal := .next s.drain

end Sys2Proof.Machine
end

