-- ==== Sys2Proof/Machine/TagRegistry.lean ====
section
/-! DEFINITION. The Tag Registry (44_tag_registry): OBSERVE and SWEEP. -/

namespace Sys2Proof.Machine

/-- The linear scan of OBSERVE: the first entry with the key has its timestamp refreshed in place, or none where no entry has it
(R190). -/
def refreshEntry (tag : Tag) (ant : Byte) (now : Nat) : List RegEntry → Option (List RegEntry)
  | [] => none
  | e :: es =>
    if e.tag = tag ∧ e.ant = ant then some ({ e with lastSeen := now } :: es) else (refreshEntry tag ant now es).map (e :: ·)

/-- OBSERVE (R190): refresh (R192), insert at the end (R191), or reject with REG_FULL (R193). -/
def State.observe (tag : Tag) (ant : Byte) (now : Nat) (s : State) : State :=
  match refreshEntry tag ant now s.reg with
  | some reg' => { s with reg := reg' }
  | none =>
    if s.reg.length < s.params.regCap then { s with reg := s.reg ++ [⟨tag, ant, now⟩] } else s.warn .regFull

/-- The disappearance report of an entry (R196). -/
def goneEvent (e : RegEntry) : Event := .pub .gone e.tag e.ant 0

/-- SWEEP (R194): one PUB(GONE) for each stale entry in list order; the fresh entries stay, in order. -/
def State.sweep (now : Nat) (s : State) : State :=
  { s.emitAll ((s.reg.filter (stale s.params now)).map goneEvent) with
    reg := s.reg.filter fun e => !stale s.params now e }

/-- OBSERVE applied directly (R84, R190). -/
def execObserve (tag : Tag) (ant : Byte) (now : Nat) (s : State) : Host.Outcome State Fault Refusal :=
  .next (s.observe tag ant now)

/-- SWEEP applied directly (R84, R194). -/
def execSweep (now : Nat) (s : State) : Host.Outcome State Fault Refusal := .next (s.sweep now)

end Sys2Proof.Machine
end

