-- ==== Sys2Proof/Machine/FieldDecoder.lean ====
section
/-! DEFINITION. The Field Decoder (43_field_decoder): DISPATCH and the three decoders. They read fixed offsets of the buffer
whatever the frame's length (R161), all of them below 26, so inside every buffer of the spec (R5). -/

namespace Sys2Proof.Machine

/-- DEC_TAG_SEEN (R162): the report goes to OBSERVE first and then to ENQUEUE (40_host_step R111). -/
def State.decTagSeen (now : Nat) (s : State) : State := (s.observe s.report.tag s.report.ant now).enqueue s.report

/-- DEC_STOP_ACK (R166). -/
def State.decStopAck (s : State) : State := { s with stopAckValid := true, stopAckOk := s.stopSuccess }

/-- DEC_OTHER (R167): no state change, no event. -/
def State.decOther (s : State) : State := s

/-- DISPATCH (R160). -/
def State.dispatch (now : Nat) (s : State) : State :=
  if s.opcode = Config.opTagSeen then s.decTagSeen now
  else if s.opcode = Config.opStopAck then s.decStopAck
  else s.decOther

/-- TAG_SEEN (R162). -/
def execTagSeen (now : Nat) (s : State) : Host.Outcome State Fault Refusal := .next (s.decTagSeen now)

/-- STOP_ACK (R166). -/
def execStopAck (s : State) : Host.Outcome State Fault Refusal := .next s.decStopAck

/-- OTHER (R167). -/
def execOther (_opcode : Byte) (s : State) : Host.Outcome State Fault Refusal := .next s.decOther

/-- DISPATCH applied directly (R84, R160). -/
def execDispatch (now : Nat) (s : State) : Host.Outcome State Fault Refusal := .next (s.dispatch now)

end Sys2Proof.Machine
end

