-- ==== Sys2Proof/Machine/FrameValidator.lean ====
section
/-! DEFINITION. The Frame Validator (42_frame_validator): VALIDATE. -/

namespace Sys2Proof.Machine

/-- VALIDATE (R140): the first failing check's warning and nothing else (R147), or the hand-over to DISPATCH. -/
def State.validate (now : Nat) (s : State) : State :=
  match s.verdict with
  | some code => s.warn code
  | none => s.dispatch now

/-- Whether VALIDATE's reads lie in the buffer: after the start check it reads `buf[n-2]` and `buf[n-1]`, and then only below `n`
(R140, R142, R143). A frame the assembler completed always has `4 <= n <= CAP` (R79). -/
def State.frameInBuffer (s : State) : Bool :=
  !s.startOk || (decide (2 ≤ s.frameLen) && decide (s.frameLen ≤ s.params.cap))

/-- VALIDATE applied directly to a completed frame (R84, R140). -/
def execValidate (now : Nat) (s : State) : Host.Outcome State Fault Refusal := onBuffer s.frameInBuffer (s.validate now)

end Sys2Proof.Machine
end

