-- ==== Sys2Proof/Machine/FrameAssembler.lean ====
section
/-! DEFINITION. The Frame Assembler (41_frame_assembler): the six paths and their selection. -/

namespace Sys2Proof.Machine

/-- START (R120). -/
def State.start (s : State) : State :=
  let t := if s.asm then s.warn .asmResync else s
  { (t.write 0 Config.s0).write 1 Config.s1 with cursor := 2, asm := true }

/-- What END does before it hands the frame to VALIDATE (R121). -/
def State.completeFrame (s : State) : State :=
  { (s.write (s.cursor - 1) Config.e0).write s.cursor Config.e1 with frameLen := s.cursor + 1, cursor := 0, asm := false }

/-- END (R121): the frame completes and is validated in the same step (R130). -/
def State.endFrame (now : Nat) (s : State) : State := s.completeFrame.validate now

/-- END_OVF (R122). -/
def State.endOvf (s : State) : State := { s with cursor := s.params.cap - 3 }.warn .asmOverflow

/-- ACC (R124). -/
def State.acc (b : Byte) (s : State) : State := { s.write s.cursor b with cursor := s.cursor + 1 }

/-- ACC_OVF (R125): the clamp comes before the write. -/
def State.accOvf (b : Byte) (s : State) : State :=
  { ({ s with cursor := s.params.cap - 3 }.warn .asmOverflow).write (s.params.cap - 3) b with cursor := s.params.cap - 2 }

/-- DISCARD (R126): no state change. -/
def State.discard (s : State) : State := s

/-- Whether END's two writes, at `cursor-1` and `cursor`, lie in the buffer (R129). -/
def State.endInBuffer (s : State) : Bool := decide (1 ≤ s.cursor) && decide (s.cursor < s.params.cap)

/-- Whether ACC's write, at `cursor`, lies in the buffer (R129). -/
def State.accInBuffer (s : State) : Bool := decide (s.cursor < s.params.cap)

/-- The six paths (R127). -/
inductive AssemblerPath where
  | start
  | endFrame
  | endOvf
  | accOvf
  | acc
  | discard
  deriving DecidableEq, Repr

/-- The path a byte takes, the first whose condition holds on the state before it (R127). -/
def State.selectPath (b : Byte) (s : State) : AssemblerPath :=
  if s.prev = Config.s0 ∧ b = Config.s1 then .start
  else if s.asm = true ∧ s.prev = Config.e0 ∧ b = Config.e1 then
    if s.cursor < s.params.cap then .endFrame else .endOvf
  else if s.asm = true then
    if s.params.cap ≤ s.cursor then .accOvf else .acc
  else .discard

/-- The selected path's effect (R102). -/
def State.runPath (path : AssemblerPath) (b : Byte) (now : Nat) (s : State) : State :=
  match path with
  | .start => s.start
  | .endFrame => s.endFrame now
  | .endOvf => s.endOvf
  | .accOvf => s.accOvf b
  | .acc => s.acc b
  | .discard => s.discard

/-- Whether the selected path's writes lie in the buffer (R129). -/
def State.pathInBuffer (path : AssemblerPath) (s : State) : Bool :=
  match path with
  | .start => true
  | .endFrame => s.endInBuffer
  | .endOvf => true
  | .accOvf => true
  | .acc => s.accInBuffer
  | .discard => true

/-- START applied directly (R84, R120); it writes the constant markers, so its operand is not read. -/
def execStart (_b : Byte) (s : State) : Host.Outcome State Fault Refusal := .next s.start

/-- END applied directly (R84, R121). -/
def execEndFrame (now : Nat) (s : State) : Host.Outcome State Fault Refusal := onBuffer s.endInBuffer (s.endFrame now)

/-- END_OVF applied directly (R84, R122). -/
def execEndOvf (s : State) : Host.Outcome State Fault Refusal := .next s.endOvf

/-- ACC_OVF applied directly (R84, R125). -/
def execAccOvf (b : Byte) (s : State) : Host.Outcome State Fault Refusal := .next (s.accOvf b)

/-- ACC applied directly (R84, R124). -/
def execAcc (b : Byte) (s : State) : Host.Outcome State Fault Refusal := onBuffer s.accInBuffer (s.acc b)

/-- DISCARD applied directly (R84, R126). -/
def execDiscard (_b : Byte) (s : State) : Host.Outcome State Fault Refusal := .next s.discard

end Sys2Proof.Machine
end

