-- ==== Sys2Proof/Machine/HostCommands.lean ====
section
/-! DEFINITION. The host commands (40_host_step): RESET, BYTE, CHECK and the reserved word. -/

namespace Sys2Proof.Machine

/-- RESET (R101): every state element to its reset value; the parameters are fixed (10_state R34), the output sequence is not
block state (R37), and the commands still on the port are the host's. -/
def State.resetCommand (s : State) : State := State.resetWith s.params s.out s.input

/-- BYTE (R102): one assembler path, then `prev <- b`. -/
def State.byte (b : Byte) (now : Nat) (s : State) : State := { s.runPath (s.selectPath b) b now with prev := b }

/-- CHECK (R103): where the cadence comparator fires, DRAIN, then SWEEP, then `lastFlush <- now`; else nothing. -/
def State.check (now : Nat) (s : State) : State :=
  if s.flushDue now then { (s.drain).sweep now with lastFlush := now } else s

/-- RESET (R101). -/
def execReset (s : State) : Host.Outcome State Fault Refusal := .next s.resetCommand

/-- BYTE (R102). -/
def execByte (b : Byte) (now : Nat) (s : State) : Host.Outcome State Fault Refusal :=
  onBuffer (s.pathInBuffer (s.selectPath b)) (s.byte b now)

/-- CHECK (R103). -/
def execCheck (now : Nat) (s : State) : Host.Outcome State Fault Refusal := .next (s.check now)

/-- RESERVED_OP3 (30_encoding R76): "A model gives it no meaning and refuses it". -/
def execReservedOp3 (_s : State) : Host.Outcome State Fault Refusal := .refused .reservedCommand

end Sys2Proof.Machine
end

