-- ==== Sys2Proof/Machine/Dispatch.lean ====
section
/-! DEFINITION. The meaning of every instruction, one arm per constructor. -/

namespace Sys2Proof.Machine

def exec (i : Instr) (s : State) : Host.Outcome State Fault Refusal :=
  match i with
  | .reset => Sys2Proof.Machine.execReset s
  | .byte b now => Sys2Proof.Machine.execByte b now s
  | .check now => Sys2Proof.Machine.execCheck now s
  | .reservedOp3 => Sys2Proof.Machine.execReservedOp3 s
  | .tagSeen now => Sys2Proof.Machine.execTagSeen now s
  | .stopAck => Sys2Proof.Machine.execStopAck s
  | .other opcode => Sys2Proof.Machine.execOther opcode s
  | .start b => Sys2Proof.Machine.execStart b s
  | .endFrame now => Sys2Proof.Machine.execEndFrame now s
  | .endOvf => Sys2Proof.Machine.execEndOvf s
  | .accOvf b => Sys2Proof.Machine.execAccOvf b s
  | .acc b => Sys2Proof.Machine.execAcc b s
  | .discard b => Sys2Proof.Machine.execDiscard b s
  | .validate now => Sys2Proof.Machine.execValidate now s
  | .dispatch now => Sys2Proof.Machine.execDispatch now s
  | .observe tag ant now => Sys2Proof.Machine.execObserve tag ant now s
  | .enqueue r => Sys2Proof.Machine.execEnqueue r s
  | .drain => Sys2Proof.Machine.execDrain s
  | .sweep now => Sys2Proof.Machine.execSweep now s

end Sys2Proof.Machine
end

