-- ==== Sys2Proof/Machine/Fetch.lean ====
section
/-! DEFINITION. Taking a command from the port, and placing a table word where the next step takes it. -/

namespace Sys2Proof.Machine

/-- The command at the head of the port with the state after it is taken, or none where no command is present (40_host_step
R100). -/
def State.takeCommand (s : State) : Option (Command × State) :=
  match s.input with
  | [] => none
  | c :: rest => some (c, { s with input := rest })

/-- One command put before all others on the port. -/
def State.issueFirst (s : State) (c : Command) : State := { s with input := c :: s.input }

/-- A frame with this opcode and a tag-seen frame's payload of zeros, in the buffer up to and with its `E0`: the state in which
the byte `E1` completes it (30_encoding R71, 41_frame_assembler R121). Log 8. -/
def State.withFramePending (s : State) (op : Byte) : State :=
  let bytes := (frameBytes op (List.replicate 21 0)).dropLast
  { s.writeBytes 0 bytes with cursor := bytes.length, asm := true, prev := Config.e0 }

/-- A command word of the table placed at the head of the port: the word in bits 9..0, the clock operand above bit 15. -/
def State.withCommandWord (s : State) (w : Nat) : State := s.issueFirst ⟨BitVec.ofNat 10 w, w >>> 16⟩

/-- An opcode byte of the table placed where DISPATCH reads it, with the BYTE command that completes its frame at the head of the
port, so that the very next step validates the frame and runs the decoder the opcode selects. Log 8. -/
def State.withOpcode (s : State) (op : Byte) : State := (s.withFramePending op).issueFirst (traceByte Config.e1 0)

end Sys2Proof.Machine
end

