-- ==== Sys2Proof/Machine/Step.lean ====
section
/-! DEFINITION. The step (40_host_step R100). -/

namespace Sys2Proof.Machine

/-- One step: the command at the head of the port is taken, decoded and executed to completion (R100, 20_memory R56). With no
command present nothing changes (30_encoding R75, R110). Log 4. -/
def step (s : State) : Host.Outcome State Fault Refusal :=
  match s.takeCommand with
  | none => .next s
  | some (c, t) => exec (decodeCommand t.params.clockW c) t

/-- The state in which the next step runs the instruction of a table row: a one-byte row is a frame opcode, a longer one a command
word, as in `decodeTableWord`. Log 8. -/
def State.withFetchWord (s : State) (nbits w : Nat) : State :=
  if nbits ≤ 8 then s.withOpcode (BitVec.ofNat 8 w) else s.withCommandWord w

end Sys2Proof.Machine
end

