-- ==== Sys2Proof/Machine/Sink.lean ====
section
/-! DEFINITION. What the sink forms from the block's exact values, outside the block (40_host_step R108, 43_field_decoder R163,
R168, R170). No rule of the block depends on it. Log 14. -/

namespace Sys2Proof.Machine

/-- A lowercase hexadecimal digit (R170). -/
def hexDigit (n : Nat) : Char := ['0', '1', '2', '3', '4', '5', '6', '7', '8', '9', 'a', 'b', 'c', 'd', 'e', 'f'].getD n '0'

/-- A byte as exactly two hex digits (R170). -/
def hexByte (b : Byte) : List Char := [hexDigit (b.toNat / 16), hexDigit (b.toNat % 16)]

/-- The hex rendering of a byte sequence: two digits a byte, in index order, no separators (R170). -/
def renderHex (bs : List Byte) : List Char := bs.flatMap hexByte

/-- `rssiDbm = -mag / 10`, an exact rational (R163). -/
def rssiDbm (raw : BitVec 16) : ℚ := -((rssiMag raw).toNat : ℚ) / 10

/-- The source's percentage formula, unclamped (R163). -/
def strengthPercent (raw : BitVec 16) : ℚ :=
  100 * (1 - ((Config.pMax : ℚ) - rssiDbm raw) / ((Config.pMax : ℚ) - (Config.pMin : ℚ)))

/-- The frequency of a report in megahertz (R168). -/
def frequencyMHz (r : Report) : ℚ := (r.freqKHz.toNat : ℚ) / 1000

/-- The fields of the sink's message that the block supplies: the antenna of the topic, and the payload's tag and strength
(R108). -/
structure SinkMessage where
  antenna : Nat
  tag : List Char
  strength : ℚ
  deriving DecidableEq

/-- The message of a publish event; a warning has none (R108). -/
def sinkMessage : Event → Option SinkMessage
  | .pub _ tag ant s5 => some ⟨ant.toNat, renderHex tag.toList, (s5 : ℚ) / 5⟩
  | .warn _ => none

end Sys2Proof.Machine
end

