-- ==== Sys2Proof/Safety.lean ====
section
/-! DEFINITION. What the reachable states of the block satisfy (10_state R36, R30, R31; 41_frame_assembler R123), and what a safe
step is, in the terms the statements use. -/

namespace Sys2Proof.Machine

/-- The registry invariants of 10_state R30 (a) and (b), and the width of its timestamps (R29). -/
structure RegInv (p : Params) (reg : List RegEntry) : Prop where
  length_le : reg.length ≤ p.regCap
  keys_nodup : (reg.map RegEntry.key).Nodup
  lastSeen_lt : ∀ e ∈ reg, e.lastSeen < 2 ^ p.clockW

/-- The queue invariants of 10_state R31 (a) and (b), and what R33 says of a stored report. -/
structure QueueInv (p : Params) (q : List Report) : Prop where
  length_le : q.length ≤ p.qCap
  keys_nodup : (q.map keyOf).Nodup
  opcode_eq : ∀ r ∈ q, r.opcode = Config.opTagSeen
  strength_eq : ∀ r ∈ q, r.strength5 = strength5 r.rssiRaw

/-- The invariants that hold after every command (10_state R36), with R123 and the canonical form of the buffer (log 6). -/
structure Inv (s : State) : Prop where
  /-- R36 (a) -/
  idle_cursor : s.asm = false → s.cursor = 0
  /-- R36 (b) -/
  busy_cursor : s.asm = true → 2 ≤ s.cursor ∧ s.cursor ≤ s.params.cap
  /-- R123: an `E0` seen while assembling stands just below the cursor. -/
  end_armed : s.asm = true → s.prev = Config.e0 → 3 ≤ s.cursor ∧ s.read (s.cursor - 1) = Config.e0
  /-- R36 (c): before any start marker the buffer is as reset left it; from then on it begins with the start marker. -/
  start_marker : (s.asm = false ∧ s.frameLen = 0 ∧ s.buf = []) ∨ (s.read 0 = Config.s0 ∧ s.read 1 = Config.s1)
  /-- R26 -/
  frameLen_range : s.frameLen = 0 ∨ (4 ≤ s.frameLen ∧ s.frameLen ≤ s.params.cap)
  /-- R129: nothing is held outside `0 .. CAP-1`; log 6. -/
  buf_wf : s.buf.wf s.params.cap = true
  /-- R28 -/
  lastFlush_lt : s.lastFlush < 2 ^ s.params.clockW
  /-- R36 (d) -/
  reg_inv : RegInv s.params s.reg
  /-- R36 (d) -/
  q_inv : QueueInv s.params s.q

/-- The command at the head of the port, if there is one, is not the reserved word: the host's duty of 30_encoding R76. -/
def admitted (s : State) : Prop := ∀ c ∈ s.input.head?, c.op ≠ 3

/-- A step that neither faults nor refuses (60_exceptions R230). -/
def completes (o : Host.Outcome State Fault Refusal) : Prop := ∃ t, o = .next t

/-- The events of a sequence that are warnings. -/
def isWarn : Event → Bool
  | .warn _ => true
  | .pub _ _ _ _ => false

/-- Instructions executed one after another, stopping at the first fault or refusal. -/
def runInstrs : List Instr → State → Host.Outcome State Fault Refusal
  | [], s => .next s
  | i :: is, s =>
    match exec i s with
    | .next t => runInstrs is t
    | .fault r => .fault r
    | .refused r => .refused r

/-- Steps taken one after another, stopping at the first fault or refusal. -/
def runSteps : Nat → State → Host.Outcome State Fault Refusal
  | 0, s => .next s
  | n + 1, s =>
    match step s with
    | .next t => runSteps n t
    | .fault r => .fault r
    | .refused r => .refused r

/-- A byte sequence that the format can carry intact as one frame (30_encoding R81): it holds the start marker at its beginning
and nowhere else, and the end marker at its end and nowhere else. -/
def carriedIntact (frame : List Byte) : Prop :=
  4 ≤ frame.length ∧
  ∀ i, i < frame.length - 1 →
    ((frame.getD i 0 = Config.s0 ∧ frame.getD (i + 1) 0 = Config.s1) ↔ i = 0) ∧
    ((frame.getD i 0 = Config.e0 ∧ frame.getD (i + 1) 0 = Config.e1) ↔ i + 2 = frame.length)

/-- The buffer holds a byte sequence from index 0. -/
def State.holds (s : State) (bs : List Byte) : Prop := ∀ i, i < bs.length → s.read i = bs.getD i 0

/-- The part of a report that leaves the block (43_field_decoder R171). -/
def publishedPart (r : Report) : Tag × Byte × Int := (r.tag, r.ant, r.strength5)

/-- Two states that differ at most in the fields of queued reports that are never published (R171). -/
def PublishesAlike (s s' : State) : Prop := s' = { s with q := s'.q } ∧ s'.q.map publishedPart = s.q.map publishedPart

end Sys2Proof.Machine
end

