-- ==== Sys2Proof/Certificates/Slice0/Obligations.lean ====
section
/-! DEFINITION. The statements for the provers. A frame is said by an equation `t = { s with … }` that names every field that may
change, and for the frame buffer by what each index reads afterwards. -/

open Sys2Proof Sys2Proof.Machine

/-! ### Encodings -/

/-- 30_encoding R83: the three commands by match and mask, for a clock value that fits the port, and their canonical spellings.
That `op = 11` (R75, R76) decodes to the row `reservedOp3`, which `exec` refuses, is the model's (log 9). -/
def Obligations.CommandWordsFollowMatchAndMask : Prop :=
  (∀ (clockW : Nat) (c : Command), c.now < 2 ^ clockW →
    (c.word &&& 0x300 = 0x000 → decodeCommand clockW c = .reset) ∧
    (c.word &&& 0x300 = 0x100 → decodeCommand clockW c = .byte (BitVec.ofNat 8 (c.word.toNat % 256)) c.now) ∧
    (c.word &&& 0x300 = 0x200 → decodeCommand clockW c = .check c.now) ∧
    (c.word &&& 0x300 = 0x300 → decodeCommand clockW c = .reservedOp3)) ∧
  encode .reset = some (.command ⟨0x000, 0⟩) ∧
  (∀ b now, encode (.byte b now) = some (.command ⟨0x100 + b.setWidth 10, now⟩)) ∧
  (∀ now, encode (.check now) = some (.command ⟨0x200, now⟩))

/-- Decode and encode agree on every well-formed instruction: a host command from its word and clock operand, a frame opcode from
its byte (with the clock operand of the BYTE that completes the frame); an internal operation has no encoding (30_encoding R83,
R80, R84). That the reserved word is an instruction with a well-formed term and a spelling is the model's (log 9). -/
def Obligations.DecodeOfEncodeIsTheInstruction : Prop :=
  ∀ (clockW : Nat) (i : Instr), i.wf clockW = true →
    (i.format = .hostCmd → ∃ c, encode i = some (.command c) ∧ decodeCommand clockW c = i) ∧
    (i.format = .frameOpcode → ∃ op, encode i = some (.opcode op) ∧
      ∀ now, (∀ t, i = .tagSeen t → t = now) → decodeOpcode op now = i) ∧
    (i.format = .internal → encode i = none)

/-- Every command word and every opcode byte decodes to a well-formed instruction of its format (30_encoding R75, R80). For a clock
value of `2^CLOCK_W` or more this rests on the decoder's cut to the port's wires, the model's choice (log 5); that the reserved word,
which spells no command (R76), decodes to a row that is well-formed and refused is the model's too (log 9). -/
def Obligations.DecodedInstructionsAreWellFormed : Prop :=
  (∀ (clockW : Nat) (c : Command),
    (decodeCommand clockW c).wf clockW = true ∧ (decodeCommand clockW c).format = .hostCmd) ∧
  (∀ (clockW now : Nat) (op : Byte), now < 2 ^ clockW →
    (decodeOpcode op now).wf clockW = true ∧ (decodeOpcode op now).format = .frameOpcode)

/-- A few words written out from 30_encoding R83 and R80 (the words of 95_test_vectors V-H2 to V-H6, and the two opcodes).
That the reserved word decodes to the row `reservedOp3` is the model's (log 9). -/
def Obligations.SampleWordsDecode : Prop :=
  decodeCommand 32 ⟨0x0FF, 9⟩ = .reset ∧ decodeCommand 32 ⟨0x1A5, 7⟩ = .byte 0xA5 7 ∧
  decodeCommand 32 ⟨0x15A, 7⟩ = .byte 0x5A 7 ∧ decodeCommand 32 ⟨0x2C3, 1000⟩ = .check 1000 ∧
  decodeCommand 32 ⟨0x300, 0⟩ = .reservedOp3 ∧ decodeOpcode 0x83 5 = .tagSeen 5 ∧ decodeOpcode 0x8D 5 = .stopAck ∧
  decodeOpcode 0x84 5 = .other 0x84

/-- The frame encoding and the block's readings of it agree: a buffer that holds the 29 bytes of a tag-seen frame, whatever its
field values, passes validation, and the report built from it has exactly those values (30_encoding R73, R77, R78). -/
def Obligations.TagFrameFieldsSurviveEncoding : Prop :=
  ∀ (s : State) (product : BitVec 16) (tag : Tag) (rssi : BitVec 16) (ant : Byte) (khz : BitVec 24) (phase : Byte) (now : Nat),
    s.holds (tagFrameBytes product tag rssi ant khz phase) → s.frameLen = 29 →
    (tagFrameBytes product tag rssi ant khz phase).length = 29 ∧
    exec (.validate now) s = exec (.tagSeen now) s ∧
    s.report = ⟨0x83, product, tag, rssi, ant, khz, phase, strength5 rssi⟩

/-- Every frame built by the rule for `ck` passes validation, whatever its opcode and payload, if its length fits the length field
and the buffer (30_encoding R71, R72, R78). -/
def Obligations.EncodedFramesPassValidation : Prop :=
  ∀ (s : State) (opcode : Byte) (payload : List Byte) (now : Nat),
    payload.length + 8 < 65536 → payload.length + 8 ≤ s.params.cap →
    s.holds (frameBytes opcode payload) → s.frameLen = payload.length + 8 →
    s.read 4 = opcode ∧ exec (.validate now) s = exec (.dispatch now) s

/-- 20_memory R53, 00_scope R9: `MemRead(i, n)` is the big-endian value of the n bytes from i. -/
def Obligations.MemReadIsBigEndian : Prop :=
  ∀ (s : State) (i n : Nat),
    s.memRead i n = ((List.range n).map fun k => (s.read (i + k)).toNat * 256 ^ (n - 1 - k)).sum

/-! ### The step and the host commands -/

/-- A step takes the command at the head of the port, decodes it and is the meaning of what it decodes to, on the state with that
command taken; with no command present it changes nothing (40_host_step R100, 30_encoding R75). That the machine goes on unchanged
on an empty port is the model's reading of "it changes nothing" (assumption log 4). -/
def Obligations.StepRunsTheDecodedCommand : Prop :=
  (∀ (s : State) (c : Command) (rest : List Command), s.input = c :: rest →
    step s = exec (decodeCommand s.params.clockW c) { s with input := rest }) ∧
  (∀ s : State, s.input = [] → step s = .next s)

/-- 30_encoding R76: a command with `op = 11` has no meaning and is refused. -/
def Obligations.ReservedCommandIsRefused : Prop :=
  (∀ s : State, exec .reservedOp3 s = .refused .reservedCommand) ∧
  (∀ (s : State) (c : Command) (rest : List Command), s.input = c :: rest → c.word &&& 0x300 = 0x300 →
    step s = .refused .reservedCommand)

/-- 10_state R37: the reset table, after RESET from any state and at power-on. -/
def Obligations.ResetGivesTheResetTable : Prop :=
  (∀ s : State, ∃ t, exec .reset s = .next t ∧
    t.prev = 0x00 ∧ t.cursor = 0 ∧ t.asm = false ∧ (∀ i, t.read i = 0x00) ∧ t.frameLen = 0 ∧
    t.stopAckValid = false ∧ t.stopAckOk = false ∧ t.lastFlush = 0 ∧ t.reg = [] ∧ t.q = [] ∧ t.out = s.out) ∧
  State.reset.prev = 0x00 ∧ State.reset.cursor = 0 ∧ State.reset.asm = false ∧ (∀ i, State.reset.read i = 0x00) ∧
  State.reset.frameLen = 0 ∧ State.reset.stopAckValid = false ∧ State.reset.stopAckOk = false ∧ State.reset.lastFlush = 0 ∧
  State.reset.reg = [] ∧ State.reset.q = []

/-- 40_host_step R101: "RESET is idempotent", and it emits nothing. -/
def Obligations.ResetIsIdempotent : Prop :=
  ∀ s : State, ∃ t, exec .reset s = .next t ∧ exec .reset t = .next t ∧ t.out = s.out

/-- 41_frame_assembler R127: for an input byte exactly one path is taken, the first in this order whose condition holds on the
state before the byte; after the path, `prev <- b`. -/
def Obligations.ByteTakesTheFirstPathThatHolds : Prop :=
  ∀ (s : State) (b : Byte) (now : Nat), Inv s →
    ∃ t,
      exec
          (if s.prev = 0xA5 ∧ b = 0x5A then .start b
          else if s.asm = true ∧ s.prev = 0x0D ∧ b = 0x0A ∧ s.cursor ≤ s.params.cap - 1 then .endFrame now
          else if s.asm = true ∧ s.prev = 0x0D ∧ b = 0x0A ∧ s.cursor = s.params.cap then .endOvf
          else if s.asm = true ∧ s.params.cap ≤ s.cursor then .accOvf b
          else if s.asm = true ∧ s.cursor ≤ s.params.cap - 1 then .acc b
          else .discard b)
          s = .next t ∧
      exec (.byte b now) s = .next { t with prev := b }

/-- 40_host_step R104: a CHECK fires when the elapsed time since `lastFlush` is at least FLUSH_INTERVAL; then the queue is drained
first, the registry swept second, and `lastFlush` takes the CHECK's `now`; otherwise nothing changes (R103). -/
def Obligations.CheckDrainsThenSweepsWhenDue : Prop :=
  ∀ (s : State) (now : Nat),
    ((s.params.flushInterval : Int) ≤ ((now : Int) - s.lastFlush) % ((2 ^ s.params.clockW : Nat) : Int) →
      ∃ t u, exec .drain s = .next t ∧ exec (.sweep now) t = .next u ∧
        exec (.check now) s = .next { u with lastFlush := now }) ∧
    (((now : Int) - s.lastFlush) % ((2 ^ s.params.clockW : Nat) : Int) < s.params.flushInterval →
      exec (.check now) s = .next s)

/-- 40_host_step R105: `age` is the modular difference, a value below `2^CLOCK_W`; it is the true elapsed time for a clock that has
not wrapped past the timestamp, and an entry seen exactly `2^CLOCK_W` ticks ago has age 0. -/
def Obligations.AgeIsTheModularElapsedTime : Prop :=
  ∀ clockW now t : Nat,
    ((age clockW now t : Nat) : Int) = ((now : Int) - t) % ((2 ^ clockW : Nat) : Int) ∧
    age clockW now t < 2 ^ clockW ∧
    (∀ d, d < 2 ^ clockW → age clockW ((t + d) % 2 ^ clockW) (t % 2 ^ clockW) = d) ∧
    age clockW ((t + 2 ^ clockW) % 2 ^ clockW) (t % 2 ^ clockW) = 0

/-- 20_memory R57: two CHECKs in a row with the same `now` are idempotent when `FLUSH_INTERVAL > 0`. -/
def Obligations.RepeatedCheckIsIdempotent : Prop :=
  ∀ (s : State) (now : Nat), 0 < s.params.flushInterval →
    ∃ t, exec (.check now) s = .next t ∧ exec (.check now) t = .next t

/-- 70_reset_and_hazards R262: after RESET the first CHECK fires exactly when its `now` is at least FLUSH_INTERVAL, and then it
emits nothing and writes only `lastFlush`. -/
def Obligations.FirstCheckAfterReset : Prop :=
  ∀ (s : State) (now : Nat), now < 2 ^ s.params.clockW →
    ∃ t, exec .reset s = .next t ∧
      exec (.check now) t = .next (if s.params.flushInterval ≤ now then { t with lastFlush := now } else t)

/-! ### Frame Assembler -/

/-- 41_frame_assembler R120. -/
def Obligations.StartBeginsAFrame : Prop :=
  ∀ (s : State) (b : Byte), s.buf.wf s.params.cap = true →
    ∃ t, exec (.start b) s = .next t ∧
      t = { s with buf := t.buf, cursor := 2, asm := true,
                   out := s.out ++ (if s.asm = true then [.warn .asmResync] else []) } ∧
      (∀ a, t.read a = if a = 0 then 0xA5 else if a = 1 then 0x5A else s.read a) ∧
      (s.prev = 0xA5 → ∀ now, exec (.byte 0x5A now) s = .next { t with prev := 0x5A })

/-- 41_frame_assembler R121. -/
def Obligations.EndCompletesAndValidatesTheFrame : Prop :=
  ∀ (s : State) (now : Nat), s.buf.wf s.params.cap = true → 1 ≤ s.cursor → s.cursor ≤ s.params.cap - 1 →
    ∃ t u,
      t = { s with buf := t.buf, frameLen := s.cursor + 1, cursor := 0, asm := false } ∧
      (∀ a, t.read a = if a = s.cursor then 0x0A else if a = s.cursor - 1 then 0x0D else s.read a) ∧
      exec (.validate now) t = .next u ∧ exec (.endFrame now) s = .next u ∧
      (s.asm = true → s.prev = 0x0D → exec (.byte 0x0A now) s = .next { u with prev := 0x0A })

/-- 41_frame_assembler R122. -/
def Obligations.EndWithFullBufferClamps : Prop :=
  ∀ (s : State) (now : Nat),
    exec .endOvf s = .next { s with cursor := s.params.cap - 3, out := s.out ++ [.warn .asmOverflow] } ∧
    (s.asm = true → s.prev = 0x0D → s.cursor = s.params.cap →
      exec (.byte 0x0A now) s =
        .next { s with cursor := s.params.cap - 3, out := s.out ++ [.warn .asmOverflow], prev := 0x0A })

/-- 41_frame_assembler R124. -/
def Obligations.AccAppendsOneByte : Prop :=
  ∀ (s : State) (b : Byte), s.buf.wf s.params.cap = true → s.cursor ≤ s.params.cap - 1 →
    ∃ t, exec (.acc b) s = .next t ∧
      t = { s with buf := t.buf, cursor := s.cursor + 1 } ∧
      (∀ a, t.read a = if a = s.cursor then b else s.read a) ∧
      (s.asm = true → ¬(s.prev = 0xA5 ∧ b = 0x5A) → ¬(s.prev = 0x0D ∧ b = 0x0A) →
        ∀ now, exec (.byte b now) s = .next { t with prev := b })

/-- 41_frame_assembler R125: the clamp comes before the write, and an overflow never touches indices 0 to 25. -/
def Obligations.AccWithFullBufferClampsThenWrites : Prop :=
  ∀ (s : State) (b : Byte), s.buf.wf s.params.cap = true →
    ∃ t, exec (.accOvf b) s = .next t ∧
      t = { s with buf := t.buf, cursor := s.params.cap - 2, out := s.out ++ [.warn .asmOverflow] } ∧
      (∀ a, t.read a = if a = s.params.cap - 3 then b else s.read a) ∧
      26 ≤ s.params.cap - 3 ∧
      (s.asm = true → s.params.cap ≤ s.cursor → ¬(s.prev = 0xA5 ∧ b = 0x5A) → ¬(s.prev = 0x0D ∧ b = 0x0A) →
        ∀ now, exec (.byte b now) s = .next { t with prev := b })

/-- 41_frame_assembler R126. -/
def Obligations.DiscardChangesOnlyPrev : Prop :=
  ∀ (s : State) (b : Byte),
    exec (.discard b) s = .next s ∧
    (s.asm = false → ¬(s.prev = 0xA5 ∧ b = 0x5A) → ∀ now, exec (.byte b now) s = .next { s with prev := b })

/-- Where the frame buffer would be indexed outside `0 .. CAP-1`, and only there, END, ACC, VALIDATE and BYTE fault. No rule of the spec
indexes there (00_scope R9, 41_frame_assembler R129); that the model faults is its own choice (assumption log 7). -/
def Obligations.IndexingOutsideTheBufferFaults : Prop :=
  ∀ (s : State) (now : Nat) (b : Byte),
    (exec (.endFrame now) s = .fault .bufferIndex ↔ s.cursor = 0 ∨ s.params.cap ≤ s.cursor) ∧
    (exec (.acc b) s = .fault .bufferIndex ↔ s.params.cap ≤ s.cursor) ∧
    (exec (.validate now) s = .fault .bufferIndex ↔
      (s.read 0 = 0xA5 ∧ s.read 1 = 0x5A) ∧ (s.frameLen < 2 ∨ s.params.cap < s.frameLen)) ∧
    (exec (.byte b now) s = .fault .bufferIndex ↔ s.asm = true ∧ s.prev = 0x0D ∧ b = 0x0A ∧ s.cursor = 0)

/-- A byte sequence that the format can carry intact, sent as BYTE commands to an idle block, is reassembled byte for byte and
validated in the step that takes its last byte (41_frame_assembler R120, R121, R123, R124, R130): `t` is the state VALIDATE sees. -/
def Obligations.IntactFramesAreReassembled : Prop :=
  ∀ (s : State) (frame : List Byte) (now : Nat) (rest : List Command),
    Inv s → s.asm = false → carriedIntact frame → frame.length ≤ s.params.cap → now < 2 ^ s.params.clockW →
    s.input = traceFrame frame now ++ rest →
    ∃ t u,
      t = { s with prev := 0x0D, buf := t.buf, frameLen := frame.length, input := rest } ∧ t.holds frame ∧
      (∀ a, frame.length ≤ a → t.read a = s.read a) ∧
      exec (.validate now) t = .next u ∧ runSteps frame.length s = .next { u with prev := 0x0A }

/-- End to end: the 29 BYTE commands of a well-formed tag-seen frame, sent to an idle block, do to the registry, the queue and the
output exactly what OBSERVE and then ENQUEUE of its report do, if the frame's fields hold no marker pair (43_field_decoder R162,
40_host_step R111). -/
def Obligations.TagFrameIsObservedAndQueued : Prop :=
  ∀ (s : State) (product : BitVec 16) (tag : Tag) (rssi : BitVec 16) (ant : Byte) (khz : BitVec 24) (phase : Byte) (now : Nat)
    (rest : List Command),
    Inv s → s.asm = false → now < 2 ^ s.params.clockW → carriedIntact (tagFrameBytes product tag rssi ant khz phase) →
    s.input = traceFrame (tagFrameBytes product tag rssi ant khz phase) now ++ rest →
    ∃ t u v,
      exec (.observe tag ant now) s = .next t ∧
      exec (.enqueue ⟨0x83, product, tag, rssi, ant, khz, phase, strength5 rssi⟩) t = .next u ∧
      runSteps 29 s = .next v ∧
      v = { u with prev := 0x0A, buf := v.buf, frameLen := 29, input := rest }

/-! ### Frame Validator -/

/-- 42_frame_validator R140, R145: the checks in the order start, end, length range, checksum; the first failing one alone is
reported and nothing else changes; a frame that passes goes to DISPATCH. -/
def Obligations.ValidateReportsTheFirstFailingCheck : Prop :=
  ∀ (s : State) (now : Nat), 2 ≤ s.frameLen → s.frameLen ≤ s.params.cap →
    (∃ t, exec (.validate now) s = .next t) ∧
    exec (.validate now) s =
      (if ¬(s.read 0 = 0xA5 ∧ s.read 1 = 0x5A) then .next { s with out := s.out ++ [.warn .rejStart] }
      else if ¬(s.read (s.frameLen - 2) = 0x0D ∧ s.read (s.frameLen - 1) = 0x0A) then
        .next { s with out := s.out ++ [.warn .rejEnd] }
      else if (s.read 2).toNat * 256 + (s.read 3).toNat < 3 ∨
          s.frameLen + 3 ≤ (s.read 2).toNat * 256 + (s.read 3).toNat then
        .next { s with out := s.out ++ [.warn .rejLength] }
      else if ((List.range ((s.read 2).toNat * 256 + (s.read 3).toNat - 3)).filter (1 < ·)).foldl
            (fun acc i => acc ^^^ s.read i) 0x00 ≠
          s.read ((s.read 2).toNat * 256 + (s.read 3).toNat - 3) then
        .next { s with out := s.out ++ [.warn .rejChecksum] }
      else exec (.dispatch now) s)

/-- 42_frame_validator R148: under the invariants, no step emits REJ_START or REJ_END. -/
def Obligations.StartAndEndChecksNeverFail : Prop :=
  ∀ s t : State, Inv s → step s = .next t →
    ∃ evs, t.out = s.out ++ evs ∧ Event.warn .rejStart ∉ evs ∧ Event.warn .rejEnd ∉ evs

/-- 42_frame_validator R146: a frame whose data length field is 5 passes, whatever else it holds between the length field and the
end marker. -/
def Obligations.DataLengthFiveAlwaysPasses : Prop :=
  ∀ (s : State) (now : Nat), 6 ≤ s.frameLen → s.frameLen ≤ s.params.cap →
    s.read 0 = 0xA5 → s.read 1 = 0x5A → s.read 2 = 0x00 → s.read 3 = 0x05 →
    s.read (s.frameLen - 2) = 0x0D → s.read (s.frameLen - 1) = 0x0A →
    exec (.validate now) s = exec (.dispatch now) s

/-- Any change of one byte between the length field and the end marker, at or below the checksum, of a frame that passes is
rejected with REJ_CHECKSUM (42_frame_validator R144; R149's bit flips at bytes 4 to 26 are the case of the example frame). -/
def Obligations.OneChangedByteIsRejected : Prop :=
  ∀ (s s' : State) (now j : Nat),
    s.verdict = none → s.frameLen ≤ s.params.cap → s' = { s with buf := s'.buf } →
    4 ≤ j → j + 2 < s.frameLen → j + 3 ≤ s.dataLength → s'.read j ≠ s.read j → (∀ a, a ≠ j → s'.read a = s.read a) →
    exec (.validate now) s' = .next { s' with out := s'.out ++ [.warn .rejChecksum] }

/-- 42_frame_validator R149: every single-bit flip of the example frame is rejected, with the reason the rule gives. -/
def Obligations.ExampleFrameBitFlipsAreRejected : Prop :=
  ∀ (s : State) (i k : Nat), i < 29 → k < 8 → s.frameLen = 29 →
    (∀ a, a < 29 → s.read a =
      (tagFrameBytes 0x3000 #v[0xE2, 0x00, 0x34, 0x11, 0xB8, 0x02, 0x01, 0x13, 0x83, 0x25, 0x85, 0x66] 0xFD6F 0x02 0x0DF732
        0x2D).getD a 0 ^^^ (if a = i then BitVec.ofNat 8 (2 ^ k) else 0)) →
    s.verdict =
      some (if i < 2 then .rejStart else if i = 2 then .rejLength else if i = 3 then (if k < 5 then .rejChecksum else .rejLength)
        else if i < 27 then .rejChecksum else .rejEnd)

/-! ### Field Decoder -/

/-- 43_field_decoder R160: the opcode byte alone selects the decoder, and no opcode is an error. -/
def Obligations.DispatchSelectsByTheOpcodeByte : Prop :=
  ∀ (s : State) (now : Nat),
    exec (.dispatch now) s =
      exec (if s.read 4 = 0x83 then .tagSeen now else if s.read 4 = 0x8D then .stopAck else .other (s.read 4)) s ∧
    ∃ t, exec (.dispatch now) s = .next t

/-- 43_field_decoder R162: the report's fields from the frame's fixed offsets, then OBSERVE, then ENQUEUE. -/
def Obligations.TagSeenBuildsObservesAndQueuesTheReport : Prop :=
  ∀ (s : State) (now : Nat), ∃ r t u,
    r.opcode = s.read 4 ∧
    r.product.toNat = (s.read 5).toNat * 256 + (s.read 6).toNat ∧
    (∀ k : Fin 12, r.tag[k] = s.read (7 + k)) ∧
    r.rssiRaw.toNat = (s.read 19).toNat * 256 + (s.read 20).toNat ∧
    r.ant = s.read 21 ∧
    r.freqKHz.toNat = (s.read 22).toNat * 65536 + (s.read 23).toNat * 256 + (s.read 24).toNat ∧
    r.phase = s.read 25 ∧
    r.strength5 = strength5 r.rssiRaw ∧
    exec (.observe r.tag r.ant now) s = .next t ∧ exec (.enqueue r) t = .next u ∧ exec (.tagSeen now) s = .next u

/-- 40_host_step R111: OBSERVE first, then ENQUEUE, and the two are independent: the queue ends as ENQUEUE alone would leave it,
and the registry as OBSERVE alone would leave it. -/
def Obligations.CachesAreUpdatedIndependently : Prop :=
  ∀ (s : State) (now : Nat), ∃ t u v,
    exec (.observe s.report.tag s.report.ant now) s = .next t ∧ exec (.enqueue s.report) t = .next u ∧
    exec (.tagSeen now) s = .next u ∧ exec (.enqueue s.report) s = .next v ∧ u.reg = t.reg ∧ u.q = v.q

/-- 43_field_decoder R163: the exact transform, its agreement with the source's percentage formula, and its range. -/
def Obligations.StrengthFollowsTheSourceFormula : Prop :=
  ∀ raw : BitVec 16,
    (rssiMag raw).toNat = (0xFFFF - raw.toNat + 1) % 2 ^ 16 ∧
    rssiDbm raw = -((rssiMag raw).toNat : ℚ) / 10 ∧
    strengthPercent raw = 100 * (1 - (-30 - rssiDbm raw) / (-30 - -80)) ∧
    strengthPercent raw = 160 - ((rssiMag raw).toNat : ℚ) / 5 ∧
    (strength5 raw : ℚ) = 5 * strengthPercent raw ∧
    strength5 raw = 800 - ((rssiMag raw).toNat : Int) ∧
    -64735 ≤ strength5 raw ∧ strength5 raw ≤ 800

/-- 43_field_decoder R164: the table of corner cases (magnitude, dBm, strength5, percent), and the magnitude of a code whose top
bit is clear (all but that of `0x0000`, which truncates to 0). -/
def Obligations.RssiCornerCases : Prop :=
  (∀ raw : BitVec 16, raw.toNat < 2 ^ 15 → raw ≠ 0 → (rssiMag raw).toNat = 65536 - raw.toNat) ∧
  ∀ row ∈ ([(0xFD6F, 657, -657 / 10, 143, 286 / 10), (0xFED4, 300, -30, 500, 100), (0xFE0C, 500, -50, 300, 60),
      (0xFCE0, 800, -80, 0, 0), (0xFFFF, 1, -1 / 10, 799, 1598 / 10), (0x0000, 0, 0, 800, 160),
      (0x8000, 32768, -32768 / 10, -31968, -63936 / 10), (0x7FFF, 32769, -32769 / 10, -31969, -63938 / 10),
      (0x0001, 65535, -65535 / 10, -64735, -12947)] : List (BitVec 16 × Nat × ℚ × Int × ℚ)),
    (rssiMag row.1).toNat = row.2.1 ∧ rssiDbm row.1 = row.2.2.1 ∧ strength5 row.1 = row.2.2.2.1 ∧
    strengthPercent row.1 = row.2.2.2.2

/-- 43_field_decoder R166. -/
def Obligations.StopAckSetsTheFlags : Prop :=
  ∀ s : State, exec .stopAck s = .next { s with stopAckValid := true, stopAckOk := decide (s.read 5 = 0x01) }

/-- 43_field_decoder R167. -/
def Obligations.OtherOpcodesChangeNothing : Prop :=
  ∀ (s : State) (op : Byte), exec (.other op) s = .next s

/-- 43_field_decoder R161: the decoders read fixed offsets whatever `frameLen` is. -/
def Obligations.DecodersIgnoreTheFrameLength : Prop :=
  ∀ (s t : State) (n now : Nat),
    (exec (.tagSeen now) s = .next t → exec (.tagSeen now) { s with frameLen := n } = .next { t with frameLen := n }) ∧
    (exec .stopAck s = .next t → exec .stopAck { s with frameLen := n } = .next { t with frameLen := n })

/-- 10_state R32: keys are equal iff all 12 tag bytes and the antenna bytes are equal, and comparing the rendered hex strings gives
the same answer. -/
def Obligations.KeysCompareAsBytesOrAsHex : Prop :=
  ∀ a b : Report,
    (keyOf a = keyOf b ↔ (∀ k : Fin 12, a.tag[k] = b.tag[k]) ∧ a.ant = b.ant) ∧
    (renderHex a.tag.toList = renderHex b.tag.toList ↔ a.tag = b.tag) ∧
    (renderHex a.tag.toList).length = 24

/-! ### Tag Registry -/

/-- 44_tag_registry R192: a known key's timestamp is overwritten in place, whatever it was, even when the registry is full. -/
def Obligations.ObserveRefreshesAKnownKey : Prop :=
  ∀ (s : State) (pre post : List RegEntry) (e : RegEntry) (now : Nat),
    s.reg = pre ++ e :: post → (∀ x ∈ pre, ¬(x.tag = e.tag ∧ x.ant = e.ant)) →
    exec (.observe e.tag e.ant now) s = .next { s with reg := pre ++ ⟨e.tag, e.ant, now⟩ :: post }

/-- 44_tag_registry R191: a new key with room left is appended at the end. -/
def Obligations.ObserveInsertsANewKey : Prop :=
  ∀ (s : State) (tag : Tag) (ant : Byte) (now : Nat),
    (∀ x ∈ s.reg, ¬(x.tag = tag ∧ x.ant = ant)) → s.reg.length < s.params.regCap →
    exec (.observe tag ant now) s = .next { s with reg := s.reg ++ [⟨tag, ant, now⟩] }

/-- 44_tag_registry R193: a new key in a full registry is rejected with one REG_FULL, and no entry changes. -/
def Obligations.ObserveRejectsANewKeyWhenFull : Prop :=
  ∀ (s : State) (tag : Tag) (ant : Byte) (now : Nat),
    (∀ x ∈ s.reg, ¬(x.tag = tag ∧ x.ant = ant)) → s.params.regCap ≤ s.reg.length →
    exec (.observe tag ant now) s = .next { s with out := s.out ++ [.warn .regFull] }

/-- 44_tag_registry R194: one PUB(GONE) for each entry whose age exceeds TIMEOUT, in list order; the others stay, in order. -/
def Obligations.SweepEvictsExactlyTheStaleEntries : Prop :=
  ∀ (s : State) (now : Nat), ∃ t, exec (.sweep now) s = .next t ∧
    t = { s with
      reg := s.reg.filter fun e =>
        decide (((now : Int) - e.lastSeen) % ((2 ^ s.params.clockW : Nat) : Int) ≤ s.params.timeout),
      out := s.out ++ (s.reg.filter fun e =>
        decide ((s.params.timeout : Int) < ((now : Int) - e.lastSeen) % ((2 ^ s.params.clockW : Nat) : Int))).map
          fun e => .pub .gone e.tag e.ant 0 }

/-- A registry key leaves only by SWEEP, by the CHECK that runs it, or by RESET: every other instruction keeps every key, in its
place (44_tag_registry R195, R197). -/
def Obligations.RegistryKeysLeaveOnlyBySweepOrReset : Prop :=
  ∀ (i : Instr) (s t : State), exec i s = .next t → i ≠ .reset → (∀ now, i ≠ .check now) → (∀ now, i ≠ .sweep now) →
    s.reg.map RegEntry.key <+: t.reg.map RegEntry.key

/-! ### Publish Queue -/

/-- 45_publish_queue R211: a queued key's report is replaced whole and in place, even when the queue is full. -/
def Obligations.EnqueueReplacesAQueuedKey : Prop :=
  ∀ (s : State) (pre post : List Report) (e r : Report),
    s.q = pre ++ e :: post → (∀ x ∈ pre, ¬(x.tag = r.tag ∧ x.ant = r.ant)) → e.tag = r.tag → e.ant = r.ant →
    exec (.enqueue r) s = .next { s with q := pre ++ r :: post }

/-- 45_publish_queue R212: a report with a new key is appended if capacity remains, else dropped with one QUEUE_FULL. -/
def Obligations.EnqueueAppendsOrDropsANewKey : Prop :=
  ∀ (s : State) (r : Report), (∀ x ∈ s.q, ¬(x.tag = r.tag ∧ x.ant = r.ant)) →
    (s.q.length < s.params.qCap → exec (.enqueue r) s = .next { s with q := s.q ++ [r] }) ∧
    (s.params.qCap ≤ s.q.length → exec (.enqueue r) s = .next { s with out := s.out ++ [.warn .queueFull] })

/-- 45_publish_queue R213: one PUB(SEEN) for each entry in list order, then the empty queue. -/
def Obligations.DrainPublishesEachEntryOnce : Prop :=
  ∀ s : State,
    exec .drain s = .next { s with q := [], out := s.out ++ s.q.map fun r => .pub .seen r.tag r.ant r.strength5 }

/-- 45_publish_queue R215 (a): after any sequence of ENQUEUEs into an empty queue, the queue holds the first Q_CAP distinct keys in
order of first sighting, each with the most recently enqueued report for that key, and DRAIN publishes exactly those. -/
def Obligations.DrainPublishesTheLatestReportOfEachKey : Prop :=
  ∀ (s : State) (rs : List Report), s.q = [] →
    ∃ t u, runInstrs (rs.map .enqueue) s = .next t ∧ exec .drain t = .next u ∧
      t.q.map keyOf = ((rs.map keyOf).reverse.dedup.reverse).take s.params.qCap ∧
      (∀ r ∈ t.q, rs.reverse.find? (fun x => decide (keyOf x = keyOf r)) = some r) ∧
      u.q = [] ∧ u.out = t.out ++ t.q.map fun r => .pub .seen r.tag r.ant r.strength5

/-- 45_publish_queue R215 (b): `Q_CAP + 1` distinct keys into an empty queue leave the first `Q_CAP` and emit one QUEUE_FULL. -/
def Obligations.OneReportTooManyIsDropped : Prop :=
  ∀ (s : State) (rs : List Report), s.q = [] → (rs.map keyOf).Nodup → rs.length = s.params.qCap + 1 →
    runInstrs (rs.map .enqueue) s =
      .next { s with q := rs.take s.params.qCap, out := s.out ++ [.warn .queueFull] }

/-- The fields of a report that are never published cannot be observed: two states that differ only there stay so, step by step,
with equal outputs (43_field_decoder R171). -/
def Obligations.UnpublishedFieldsNeverReachTheOutput : Prop :=
  ∀ s s' t : State, PublishesAlike s s' → step s = .next t → ∃ t', step s' = .next t' ∧ PublishesAlike t t' ∧ t'.out = t.out

/-! ### The whole machine -/

/-- 10_state R36: the invariants hold after reset. That the buffer is held in a canonical list is the model's own (assumption
log 6), as is the parameter choice of `State.reset` (log 2). -/
def Obligations.InvariantHoldsAtReset : Prop := Inv State.reset

/-- 10_state R36, R30, R31, 41_frame_assembler R123: every step keeps the invariants, from every state that has them. The canonical
form of the buffer and the bounds on the timestamps are the model's own clauses (log 6, 11). -/
def Obligations.StepKeepsTheInvariant : Prop :=
  ∀ s t : State, Inv s → step s = .next t → Inv t

/-- 60_exceptions R230, 40_host_step R100: under the invariants a step never faults, and refuses nothing but the reserved command.
That a step on an empty port completes too is the model's choice (log 4). -/
def Obligations.AdmittedCommandsAlwaysComplete : Prop :=
  ∀ s : State, Inv s →
    (admitted s → ∃ t, step s = .next t) ∧ (∀ f, step s ≠ .fault f) ∧ (∀ r, step s = .refused r → r = .reservedCommand)

/-- No instruction changes the parameters or the commands still on the port, and none retracts an event (10_state R34, 00_scope
R10). That RESET keeps the commands still on the port is the model's choice (log 4). -/
def Obligations.ParametersAndEmittedEventsAreFixed : Prop :=
  ∀ (i : Instr) (s t : State), exec i s = .next t →
    t.params = s.params ∧ t.input = s.input ∧ s.out <+: t.out

/-- 60_exceptions R234: what one command can emit, and in what order. -/
def Obligations.EventsOfOneCommandComeInOrder : Prop :=
  (∀ (s t : State) (b : Byte) (now : Nat), exec (.byte b now) s = .next t →
    ∃ evs, t.out = s.out ++ evs ∧
      (evs = [] ∨ (∃ code, code ≠ .regFull ∧ code ≠ .queueFull ∧ evs = [.warn code]) ∨
        evs = [.warn .regFull] ∨ evs = [.warn .queueFull] ∨ evs = [.warn .regFull, .warn .queueFull]) ∧
      ((t.asm = false ∧ s.asm = true) → .warn .asmOverflow ∉ evs ∧ .warn .asmResync ∉ evs)) ∧
  (∀ (s t : State) (now : Nat), exec (.check now) s = .next t →
    ∃ gone : List RegEntry, gone.Sublist s.reg ∧
      (t.out = s.out ∨ t.out = s.out ++ (s.q.map fun r => Event.pub .seen r.tag r.ant r.strength5) ++
        gone.map fun e => Event.pub .gone e.tag e.ant 0)) ∧
  (∀ s t : State, exec .reset s = .next t → t.out = s.out)

/-- 10_state R27, R38: `stopAckValid`, once set, is cleared by RESET alone. -/
def Obligations.StopAckValidIsClearedOnlyByReset : Prop :=
  ∀ (i : Instr) (s t : State), exec i s = .next t → i ≠ .reset → s.stopAckValid = true → t.stopAckValid = true

/-- 10_state R38: the three level outputs equal the state elements of their names after every step, whatever it did; with a decoded
stop-acknowledgement they show it. -/
def Obligations.StatusOutputsFollowTheState : Prop :=
  (∀ s : State, s.statusOutputs = ⟨s.stopAckValid, s.stopAckOk, s.asm⟩) ∧
  (∀ s : State, ∃ t, exec .stopAck s = .next t ∧ t.statusOutputs = ⟨true, decide (s.read 5 = 0x01), s.asm⟩)
end

