-- ==== Sys2Proof/Laws/Memory.lean ====
section
/-! SUPPORT. The frame buffer: reads after writes, and the canonical form that every operation keeps. -/

namespace Sys2Proof.Machine

@[simp] theorem Memory.get_nil (i : Nat) : Memory.get [] i = Memory.unlisted := rfl

/-- A well-formed list holds nothing below its lower bound. -/
theorem Memory.get_of_lt {lo hi i : Nat} {m : Memory} (h : m.wfFrom lo hi = true) (hlt : i < lo) : m.get i = Memory.unlisted := by
  induction m generalizing lo with
  | nil => rfl
  | cons c rest ih =>
    obtain ⟨a, v⟩ := c
    simp only [Memory.wfFrom, Bool.and_eq_true, decide_eq_true_eq] at h
    rw [Memory.get, if_neg (by omega)]
    exact ih h.2 (by omega)

/-- A well-formed list holds nothing at or above its upper bound. -/
theorem Memory.get_of_ge {lo hi i : Nat} {m : Memory} (h : m.wfFrom lo hi = true) (hle : hi ≤ i) : m.get i = Memory.unlisted := by
  induction m generalizing lo with
  | nil => rfl
  | cons c rest ih =>
    obtain ⟨a, v⟩ := c
    simp only [Memory.wfFrom, Bool.and_eq_true, decide_eq_true_eq] at h
    rw [Memory.get, if_neg (by omega)]
    exact ih h.2

theorem Memory.wfFrom_mono {lo lo' hi : Nat} {m : Memory} (h : m.wfFrom lo hi = true) (hl : lo' ≤ lo) : m.wfFrom lo' hi = true := by
  cases m with
  | nil => rfl
  | cons c rest =>
    obtain ⟨a, v⟩ := c
    simp only [Memory.wfFrom, Bool.and_eq_true, decide_eq_true_eq] at h ⊢
    exact ⟨⟨⟨by omega, h.1.1.2⟩, h.1.2⟩, h.2⟩

theorem Memory.cell_wf {lo hi i : Nat} {v : Byte} {rest : Memory} (h1 : lo ≤ i) (h2 : i < hi)
    (h : rest.wfFrom (i + 1) hi = true) : (Memory.cell i v rest).wfFrom lo hi = true := by
  unfold Memory.cell
  split
  · exact Memory.wfFrom_mono h (by omega)
  · simp [Memory.wfFrom, *]

/-- A write inside the bounds keeps the canonical form. -/
theorem Memory.set_wfFrom {lo hi i : Nat} {v : Byte} {m : Memory} (h : m.wfFrom lo hi = true) (h1 : lo ≤ i) (h2 : i < hi) :
    (m.set i v).wfFrom lo hi = true := by
  induction m generalizing lo with
  | nil => exact Memory.cell_wf h1 h2 rfl
  | cons c rest ih =>
    obtain ⟨a, w⟩ := c
    have h' := h
    simp only [Memory.wfFrom, Bool.and_eq_true, decide_eq_true_eq] at h'
    simp only [Memory.set]
    split
    · exact Memory.cell_wf h1 h2 (by simp [Memory.wfFrom, h'.1.2, h'.2, h'.1.1.2]; omega)
    · split
      · next hia => exact Memory.cell_wf h1 h2 (hia ▸ h'.2)
      · simp only [Memory.wfFrom, Bool.and_eq_true, decide_eq_true_eq]
        exact ⟨h'.1, ih h'.2 (by omega)⟩

/-- Every write inside the buffer keeps its canonical form. -/
theorem Memory.set_wf {cap i : Nat} {v : Byte} {m : Memory} (h : m.wf cap = true) (hi : i < cap) : (m.set i v).wf cap = true :=
  Memory.set_wfFrom h (Nat.zero_le i) hi

theorem Memory.get_cell_ne {i j : Nat} (v : Byte) (rest : Memory) (h : j ≠ i) : (Memory.cell i v rest).get j = rest.get j := by
  unfold Memory.cell
  split
  · rfl
  · rw [Memory.get, if_neg (Ne.symm h)]

/-- A write leaves every other index alone. -/
theorem Memory.get_set_ne {i j : Nat} (v : Byte) (m : Memory) (h : j ≠ i) : (m.set i v).get j = m.get j := by
  induction m with
  | nil => exact Memory.get_cell_ne v [] h
  | cons c rest ih =>
    obtain ⟨a, w⟩ := c
    simp only [Memory.set]
    split
    · exact Memory.get_cell_ne v _ h
    · split
      · next hia => rw [Memory.get_cell_ne v rest h, Memory.get, if_neg (by omega)]
      · rw [Memory.get, Memory.get, ih]

theorem Memory.get_cell_self {lo hi i : Nat} {rest : Memory} (v : Byte) (h : rest.wfFrom lo hi = true) (hlt : i < lo) :
    (Memory.cell i v rest).get i = v := by
  unfold Memory.cell
  split
  · next hv => rw [Memory.get_of_lt h hlt, hv]
  · rw [Memory.get, if_pos rfl]

/-- A read after a write gives the byte written. -/
theorem Memory.get_set_self {lo hi i : Nat} {m : Memory} (v : Byte) (h : m.wfFrom lo hi = true) : (m.set i v).get i = v := by
  induction m generalizing lo with
  | nil => exact Memory.get_cell_self (lo := i + 1) (hi := i + 1) v rfl (by omega)
  | cons c rest ih =>
    obtain ⟨a, w⟩ := c
    have h' := h
    simp only [Memory.wfFrom, Bool.and_eq_true, decide_eq_true_eq] at h'
    simp only [Memory.set]
    split
    · next hia =>
      refine Memory.get_cell_self (lo := a) (hi := hi) v ?_ hia
      simp only [Memory.wfFrom, Bool.and_eq_true, decide_eq_true_eq]
      exact ⟨⟨⟨Nat.le_refl a, h'.1.1.2⟩, h'.1.2⟩, h'.2⟩
    · split
      · next hia => exact Memory.get_cell_self v h'.2 (by omega)
      · rw [Memory.get, if_neg (by omega)]
        exact ih h'.2

/-- In a canonical buffer, a read after a write gives the written byte at its index and the old byte elsewhere. -/
theorem Memory.get_set {cap i j : Nat} {m : Memory} (v : Byte) (h : m.wf cap = true) :
    (m.set i v).get j = if j = i then v else m.get j := by
  split
  · next hji => rw [hji]; exact Memory.get_set_self v h
  · next hji => exact Memory.get_set_ne v m hji

/-- The canonical form is canonical: buffers that read the same at every index are the same list. -/
theorem Memory.ext_of_get {lo hi : Nat} {m n : Memory} (hm : m.wfFrom lo hi = true) (hn : n.wfFrom lo hi = true)
    (h : ∀ i, m.get i = n.get i) : m = n := by
  induction m generalizing n lo with
  | nil =>
    cases n with
    | nil => rfl
    | cons c rest =>
      obtain ⟨a, v⟩ := c
      simp only [Memory.wfFrom, Bool.and_eq_true, decide_eq_true_eq] at hn
      have := h a
      rw [Memory.get_nil, Memory.get, if_pos rfl] at this
      exact absurd this.symm hn.1.2
  | cons c rest ih =>
    obtain ⟨a, v⟩ := c
    have hm' := hm
    simp only [Memory.wfFrom, Bool.and_eq_true, decide_eq_true_eq] at hm'
    have ha := h a
    rw [Memory.get, if_pos rfl] at ha
    cases n with
    | nil => exact absurd ha hm'.1.2
    | cons d rest' =>
      obtain ⟨b, w⟩ := d
      have hn' := hn
      simp only [Memory.wfFrom, Bool.and_eq_true, decide_eq_true_eq] at hn'
      have hb := h b
      rw [Memory.get, Memory.get, if_pos rfl] at hb
      have hab : a = b := by
        rcases Nat.lt_trichotomy a b with hlt | heq | hgt
        · rw [Memory.get, if_neg (by omega), Memory.get_of_lt hn'.2 (by omega)] at ha
          exact absurd ha hm'.1.2
        · exact heq
        · rw [if_neg (by omega), Memory.get_of_lt hm'.2 (by omega)] at hb
          exact absurd hb.symm hn'.1.2
      subst hab
      rw [Memory.get, if_pos rfl] at ha
      have hrest : ∀ i, Memory.get rest i = Memory.get rest' i := by
        intro i
        by_cases hi' : i = a
        · rw [hi', Memory.get_of_lt hm'.2 (by omega), Memory.get_of_lt hn'.2 (by omega)]
        · have := h i
          rwa [Memory.get, Memory.get, if_neg (Ne.symm hi'), if_neg (Ne.symm hi')] at this
      rw [ha, ih hm'.2 hn'.2 hrest]

/-- The buffer after reset is canonical. -/
theorem State.reset_buf_wf : State.reset.buf.wf State.reset.params.cap = true := rfl

@[simp] theorem State.read_write_ne {s : State} {i j : Nat} {v : Byte} (h : j ≠ i) : (s.write i v).read j = s.read j :=
  Memory.get_set_ne v s.buf h

theorem State.read_write {s : State} {i j cap : Nat} {v : Byte} (h : s.buf.wf cap = true) :
    (s.write i v).read j = if j = i then v else s.read j :=
  Memory.get_set v h

/-- Consecutive writes keep the canonical form. -/
theorem State.writeBytes_wf {s : State} {cap : Nat} (bs : List Byte) (i : Nat) (h : s.buf.wf cap = true)
    (hi : i + bs.length ≤ cap) : (s.writeBytes i bs).buf.wf cap = true := by
  induction bs generalizing s i with
  | nil => exact h
  | cons b bs ih =>
    simp only [List.length_cons] at hi
    exact ih (s := s.write i b) (i + 1) (Memory.set_wf h (by omega)) (by omega)

end Sys2Proof.Machine
end

