-- ==== Sys2Proof/Laws/State.lean ====
section
/-! SUPPORT. One lemma per field per update of the state, so that no proof unfolds a record update. -/

namespace Sys2Proof.Machine

variable (s : State)

/-! ### write i v -/

@[simp] theorem State.write_params (i : Nat) (v : Byte) : (s.write i v).params = s.params := rfl
@[simp] theorem State.write_prev (i : Nat) (v : Byte) : (s.write i v).prev = s.prev := rfl
@[simp] theorem State.write_cursor (i : Nat) (v : Byte) : (s.write i v).cursor = s.cursor := rfl
@[simp] theorem State.write_asm (i : Nat) (v : Byte) : (s.write i v).asm = s.asm := rfl
@[simp] theorem State.write_buf (i : Nat) (v : Byte) : (s.write i v).buf = s.buf.set i v := rfl
@[simp] theorem State.write_frameLen (i : Nat) (v : Byte) : (s.write i v).frameLen = s.frameLen := rfl
@[simp] theorem State.write_stopAckValid (i : Nat) (v : Byte) : (s.write i v).stopAckValid = s.stopAckValid := rfl
@[simp] theorem State.write_stopAckOk (i : Nat) (v : Byte) : (s.write i v).stopAckOk = s.stopAckOk := rfl
@[simp] theorem State.write_lastFlush (i : Nat) (v : Byte) : (s.write i v).lastFlush = s.lastFlush := rfl
@[simp] theorem State.write_reg (i : Nat) (v : Byte) : (s.write i v).reg = s.reg := rfl
@[simp] theorem State.write_q (i : Nat) (v : Byte) : (s.write i v).q = s.q := rfl
@[simp] theorem State.write_out (i : Nat) (v : Byte) : (s.write i v).out = s.out := rfl
@[simp] theorem State.write_input (i : Nat) (v : Byte) : (s.write i v).input = s.input := rfl

/-! ### emitAll evs -/

@[simp] theorem State.emitAll_params (evs : List Event) : (s.emitAll evs).params = s.params := rfl
@[simp] theorem State.emitAll_prev (evs : List Event) : (s.emitAll evs).prev = s.prev := rfl
@[simp] theorem State.emitAll_cursor (evs : List Event) : (s.emitAll evs).cursor = s.cursor := rfl
@[simp] theorem State.emitAll_asm (evs : List Event) : (s.emitAll evs).asm = s.asm := rfl
@[simp] theorem State.emitAll_buf (evs : List Event) : (s.emitAll evs).buf = s.buf := rfl
@[simp] theorem State.emitAll_frameLen (evs : List Event) : (s.emitAll evs).frameLen = s.frameLen := rfl
@[simp] theorem State.emitAll_stopAckValid (evs : List Event) : (s.emitAll evs).stopAckValid = s.stopAckValid := rfl
@[simp] theorem State.emitAll_stopAckOk (evs : List Event) : (s.emitAll evs).stopAckOk = s.stopAckOk := rfl
@[simp] theorem State.emitAll_lastFlush (evs : List Event) : (s.emitAll evs).lastFlush = s.lastFlush := rfl
@[simp] theorem State.emitAll_reg (evs : List Event) : (s.emitAll evs).reg = s.reg := rfl
@[simp] theorem State.emitAll_q (evs : List Event) : (s.emitAll evs).q = s.q := rfl
@[simp] theorem State.emitAll_out (evs : List Event) : (s.emitAll evs).out = s.out ++ evs := rfl
@[simp] theorem State.emitAll_input (evs : List Event) : (s.emitAll evs).input = s.input := rfl

/-! ### emit ev -/

@[simp] theorem State.emit_params (ev : Event) : (s.emit ev).params = s.params := rfl
@[simp] theorem State.emit_prev (ev : Event) : (s.emit ev).prev = s.prev := rfl
@[simp] theorem State.emit_cursor (ev : Event) : (s.emit ev).cursor = s.cursor := rfl
@[simp] theorem State.emit_asm (ev : Event) : (s.emit ev).asm = s.asm := rfl
@[simp] theorem State.emit_buf (ev : Event) : (s.emit ev).buf = s.buf := rfl
@[simp] theorem State.emit_frameLen (ev : Event) : (s.emit ev).frameLen = s.frameLen := rfl
@[simp] theorem State.emit_stopAckValid (ev : Event) : (s.emit ev).stopAckValid = s.stopAckValid := rfl
@[simp] theorem State.emit_stopAckOk (ev : Event) : (s.emit ev).stopAckOk = s.stopAckOk := rfl
@[simp] theorem State.emit_lastFlush (ev : Event) : (s.emit ev).lastFlush = s.lastFlush := rfl
@[simp] theorem State.emit_reg (ev : Event) : (s.emit ev).reg = s.reg := rfl
@[simp] theorem State.emit_q (ev : Event) : (s.emit ev).q = s.q := rfl
@[simp] theorem State.emit_out (ev : Event) : (s.emit ev).out = s.out ++ [ev] := rfl
@[simp] theorem State.emit_input (ev : Event) : (s.emit ev).input = s.input := rfl

/-! ### warn code -/

@[simp] theorem State.warn_params (code : WarnCode) : (s.warn code).params = s.params := rfl
@[simp] theorem State.warn_prev (code : WarnCode) : (s.warn code).prev = s.prev := rfl
@[simp] theorem State.warn_cursor (code : WarnCode) : (s.warn code).cursor = s.cursor := rfl
@[simp] theorem State.warn_asm (code : WarnCode) : (s.warn code).asm = s.asm := rfl
@[simp] theorem State.warn_buf (code : WarnCode) : (s.warn code).buf = s.buf := rfl
@[simp] theorem State.warn_frameLen (code : WarnCode) : (s.warn code).frameLen = s.frameLen := rfl
@[simp] theorem State.warn_stopAckValid (code : WarnCode) : (s.warn code).stopAckValid = s.stopAckValid := rfl
@[simp] theorem State.warn_stopAckOk (code : WarnCode) : (s.warn code).stopAckOk = s.stopAckOk := rfl
@[simp] theorem State.warn_lastFlush (code : WarnCode) : (s.warn code).lastFlush = s.lastFlush := rfl
@[simp] theorem State.warn_reg (code : WarnCode) : (s.warn code).reg = s.reg := rfl
@[simp] theorem State.warn_q (code : WarnCode) : (s.warn code).q = s.q := rfl
@[simp] theorem State.warn_out (code : WarnCode) : (s.warn code).out = s.out ++ [.warn code] := rfl
@[simp] theorem State.warn_input (code : WarnCode) : (s.warn code).input = s.input := rfl

/-! ### issueFirst c -/

@[simp] theorem State.issueFirst_params (c : Command) : (s.issueFirst c).params = s.params := rfl
@[simp] theorem State.issueFirst_prev (c : Command) : (s.issueFirst c).prev = s.prev := rfl
@[simp] theorem State.issueFirst_cursor (c : Command) : (s.issueFirst c).cursor = s.cursor := rfl
@[simp] theorem State.issueFirst_asm (c : Command) : (s.issueFirst c).asm = s.asm := rfl
@[simp] theorem State.issueFirst_buf (c : Command) : (s.issueFirst c).buf = s.buf := rfl
@[simp] theorem State.issueFirst_frameLen (c : Command) : (s.issueFirst c).frameLen = s.frameLen := rfl
@[simp] theorem State.issueFirst_stopAckValid (c : Command) : (s.issueFirst c).stopAckValid = s.stopAckValid := rfl
@[simp] theorem State.issueFirst_stopAckOk (c : Command) : (s.issueFirst c).stopAckOk = s.stopAckOk := rfl
@[simp] theorem State.issueFirst_lastFlush (c : Command) : (s.issueFirst c).lastFlush = s.lastFlush := rfl
@[simp] theorem State.issueFirst_reg (c : Command) : (s.issueFirst c).reg = s.reg := rfl
@[simp] theorem State.issueFirst_q (c : Command) : (s.issueFirst c).q = s.q := rfl
@[simp] theorem State.issueFirst_out (c : Command) : (s.issueFirst c).out = s.out := rfl
@[simp] theorem State.issueFirst_input (c : Command) : (s.issueFirst c).input = c :: s.input := rfl

/-! ### drain -/

@[simp] theorem State.drain_params : (s.drain).params = s.params := rfl
@[simp] theorem State.drain_prev : (s.drain).prev = s.prev := rfl
@[simp] theorem State.drain_cursor : (s.drain).cursor = s.cursor := rfl
@[simp] theorem State.drain_asm : (s.drain).asm = s.asm := rfl
@[simp] theorem State.drain_buf : (s.drain).buf = s.buf := rfl
@[simp] theorem State.drain_frameLen : (s.drain).frameLen = s.frameLen := rfl
@[simp] theorem State.drain_stopAckValid : (s.drain).stopAckValid = s.stopAckValid := rfl
@[simp] theorem State.drain_stopAckOk : (s.drain).stopAckOk = s.stopAckOk := rfl
@[simp] theorem State.drain_lastFlush : (s.drain).lastFlush = s.lastFlush := rfl
@[simp] theorem State.drain_reg : (s.drain).reg = s.reg := rfl
@[simp] theorem State.drain_q : (s.drain).q = [] := rfl
@[simp] theorem State.drain_out : (s.drain).out = s.out ++ s.q.map seenEvent := rfl
@[simp] theorem State.drain_input : (s.drain).input = s.input := rfl

/-! ### sweep now -/

@[simp] theorem State.sweep_params (now : Nat) : (s.sweep now).params = s.params := rfl
@[simp] theorem State.sweep_prev (now : Nat) : (s.sweep now).prev = s.prev := rfl
@[simp] theorem State.sweep_cursor (now : Nat) : (s.sweep now).cursor = s.cursor := rfl
@[simp] theorem State.sweep_asm (now : Nat) : (s.sweep now).asm = s.asm := rfl
@[simp] theorem State.sweep_buf (now : Nat) : (s.sweep now).buf = s.buf := rfl
@[simp] theorem State.sweep_frameLen (now : Nat) : (s.sweep now).frameLen = s.frameLen := rfl
@[simp] theorem State.sweep_stopAckValid (now : Nat) : (s.sweep now).stopAckValid = s.stopAckValid := rfl
@[simp] theorem State.sweep_stopAckOk (now : Nat) : (s.sweep now).stopAckOk = s.stopAckOk := rfl
@[simp] theorem State.sweep_lastFlush (now : Nat) : (s.sweep now).lastFlush = s.lastFlush := rfl
@[simp] theorem State.sweep_reg (now : Nat) : (s.sweep now).reg = s.reg.filter fun e => !stale s.params now e := rfl
@[simp] theorem State.sweep_q (now : Nat) : (s.sweep now).q = s.q := rfl
@[simp] theorem State.sweep_out (now : Nat) : (s.sweep now).out = s.out ++ (s.reg.filter (stale s.params now)).map goneEvent := rfl
@[simp] theorem State.sweep_input (now : Nat) : (s.sweep now).input = s.input := rfl

/-! ### decStopAck -/

@[simp] theorem State.decStopAck_params : (s.decStopAck).params = s.params := rfl
@[simp] theorem State.decStopAck_prev : (s.decStopAck).prev = s.prev := rfl
@[simp] theorem State.decStopAck_cursor : (s.decStopAck).cursor = s.cursor := rfl
@[simp] theorem State.decStopAck_asm : (s.decStopAck).asm = s.asm := rfl
@[simp] theorem State.decStopAck_buf : (s.decStopAck).buf = s.buf := rfl
@[simp] theorem State.decStopAck_frameLen : (s.decStopAck).frameLen = s.frameLen := rfl
@[simp] theorem State.decStopAck_stopAckValid : (s.decStopAck).stopAckValid = true := rfl
@[simp] theorem State.decStopAck_stopAckOk : (s.decStopAck).stopAckOk = s.stopSuccess := rfl
@[simp] theorem State.decStopAck_lastFlush : (s.decStopAck).lastFlush = s.lastFlush := rfl
@[simp] theorem State.decStopAck_reg : (s.decStopAck).reg = s.reg := rfl
@[simp] theorem State.decStopAck_q : (s.decStopAck).q = s.q := rfl
@[simp] theorem State.decStopAck_out : (s.decStopAck).out = s.out := rfl
@[simp] theorem State.decStopAck_input : (s.decStopAck).input = s.input := rfl

/-! ### completeFrame -/

@[simp] theorem State.completeFrame_params : (s.completeFrame).params = s.params := rfl
@[simp] theorem State.completeFrame_prev : (s.completeFrame).prev = s.prev := rfl
@[simp] theorem State.completeFrame_cursor : (s.completeFrame).cursor = 0 := rfl
@[simp] theorem State.completeFrame_asm : (s.completeFrame).asm = false := rfl
@[simp] theorem State.completeFrame_buf : (s.completeFrame).buf = (s.buf.set (s.cursor - 1) Config.e0).set s.cursor Config.e1 := rfl
@[simp] theorem State.completeFrame_frameLen : (s.completeFrame).frameLen = s.cursor + 1 := rfl
@[simp] theorem State.completeFrame_stopAckValid : (s.completeFrame).stopAckValid = s.stopAckValid := rfl
@[simp] theorem State.completeFrame_stopAckOk : (s.completeFrame).stopAckOk = s.stopAckOk := rfl
@[simp] theorem State.completeFrame_lastFlush : (s.completeFrame).lastFlush = s.lastFlush := rfl
@[simp] theorem State.completeFrame_reg : (s.completeFrame).reg = s.reg := rfl
@[simp] theorem State.completeFrame_q : (s.completeFrame).q = s.q := rfl
@[simp] theorem State.completeFrame_out : (s.completeFrame).out = s.out := rfl
@[simp] theorem State.completeFrame_input : (s.completeFrame).input = s.input := rfl

/-! ### endOvf -/

@[simp] theorem State.endOvf_params : (s.endOvf).params = s.params := rfl
@[simp] theorem State.endOvf_prev : (s.endOvf).prev = s.prev := rfl
@[simp] theorem State.endOvf_cursor : (s.endOvf).cursor = s.params.cap - 3 := rfl
@[simp] theorem State.endOvf_asm : (s.endOvf).asm = s.asm := rfl
@[simp] theorem State.endOvf_buf : (s.endOvf).buf = s.buf := rfl
@[simp] theorem State.endOvf_frameLen : (s.endOvf).frameLen = s.frameLen := rfl
@[simp] theorem State.endOvf_stopAckValid : (s.endOvf).stopAckValid = s.stopAckValid := rfl
@[simp] theorem State.endOvf_stopAckOk : (s.endOvf).stopAckOk = s.stopAckOk := rfl
@[simp] theorem State.endOvf_lastFlush : (s.endOvf).lastFlush = s.lastFlush := rfl
@[simp] theorem State.endOvf_reg : (s.endOvf).reg = s.reg := rfl
@[simp] theorem State.endOvf_q : (s.endOvf).q = s.q := rfl
@[simp] theorem State.endOvf_out : (s.endOvf).out = s.out ++ [.warn .asmOverflow] := rfl
@[simp] theorem State.endOvf_input : (s.endOvf).input = s.input := rfl

/-! ### acc b -/

@[simp] theorem State.acc_params (b : Byte) : (s.acc b).params = s.params := rfl
@[simp] theorem State.acc_prev (b : Byte) : (s.acc b).prev = s.prev := rfl
@[simp] theorem State.acc_cursor (b : Byte) : (s.acc b).cursor = s.cursor + 1 := rfl
@[simp] theorem State.acc_asm (b : Byte) : (s.acc b).asm = s.asm := rfl
@[simp] theorem State.acc_buf (b : Byte) : (s.acc b).buf = s.buf.set s.cursor b := rfl
@[simp] theorem State.acc_frameLen (b : Byte) : (s.acc b).frameLen = s.frameLen := rfl
@[simp] theorem State.acc_stopAckValid (b : Byte) : (s.acc b).stopAckValid = s.stopAckValid := rfl
@[simp] theorem State.acc_stopAckOk (b : Byte) : (s.acc b).stopAckOk = s.stopAckOk := rfl
@[simp] theorem State.acc_lastFlush (b : Byte) : (s.acc b).lastFlush = s.lastFlush := rfl
@[simp] theorem State.acc_reg (b : Byte) : (s.acc b).reg = s.reg := rfl
@[simp] theorem State.acc_q (b : Byte) : (s.acc b).q = s.q := rfl
@[simp] theorem State.acc_out (b : Byte) : (s.acc b).out = s.out := rfl
@[simp] theorem State.acc_input (b : Byte) : (s.acc b).input = s.input := rfl

/-! ### accOvf b -/

@[simp] theorem State.accOvf_params (b : Byte) : (s.accOvf b).params = s.params := rfl
@[simp] theorem State.accOvf_prev (b : Byte) : (s.accOvf b).prev = s.prev := rfl
@[simp] theorem State.accOvf_cursor (b : Byte) : (s.accOvf b).cursor = s.params.cap - 2 := rfl
@[simp] theorem State.accOvf_asm (b : Byte) : (s.accOvf b).asm = s.asm := rfl
@[simp] theorem State.accOvf_buf (b : Byte) : (s.accOvf b).buf = s.buf.set (s.params.cap - 3) b := rfl
@[simp] theorem State.accOvf_frameLen (b : Byte) : (s.accOvf b).frameLen = s.frameLen := rfl
@[simp] theorem State.accOvf_stopAckValid (b : Byte) : (s.accOvf b).stopAckValid = s.stopAckValid := rfl
@[simp] theorem State.accOvf_stopAckOk (b : Byte) : (s.accOvf b).stopAckOk = s.stopAckOk := rfl
@[simp] theorem State.accOvf_lastFlush (b : Byte) : (s.accOvf b).lastFlush = s.lastFlush := rfl
@[simp] theorem State.accOvf_reg (b : Byte) : (s.accOvf b).reg = s.reg := rfl
@[simp] theorem State.accOvf_q (b : Byte) : (s.accOvf b).q = s.q := rfl
@[simp] theorem State.accOvf_out (b : Byte) : (s.accOvf b).out = s.out ++ [.warn .asmOverflow] := rfl
@[simp] theorem State.accOvf_input (b : Byte) : (s.accOvf b).input = s.input := rfl

/-! ### resetCommand -/

@[simp] theorem State.resetCommand_params : (s.resetCommand).params = s.params := rfl
@[simp] theorem State.resetCommand_prev : (s.resetCommand).prev = 0 := rfl
@[simp] theorem State.resetCommand_cursor : (s.resetCommand).cursor = 0 := rfl
@[simp] theorem State.resetCommand_asm : (s.resetCommand).asm = false := rfl
@[simp] theorem State.resetCommand_buf : (s.resetCommand).buf = [] := rfl
@[simp] theorem State.resetCommand_frameLen : (s.resetCommand).frameLen = 0 := rfl
@[simp] theorem State.resetCommand_stopAckValid : (s.resetCommand).stopAckValid = false := rfl
@[simp] theorem State.resetCommand_stopAckOk : (s.resetCommand).stopAckOk = false := rfl
@[simp] theorem State.resetCommand_lastFlush : (s.resetCommand).lastFlush = 0 := rfl
@[simp] theorem State.resetCommand_reg : (s.resetCommand).reg = [] := rfl
@[simp] theorem State.resetCommand_q : (s.resetCommand).q = [] := rfl
@[simp] theorem State.resetCommand_out : (s.resetCommand).out = s.out := rfl
@[simp] theorem State.resetCommand_input : (s.resetCommand).input = s.input := rfl

/-! ### start (a case split on `asm`) -/

@[simp] theorem State.start_params : (s.start).params = s.params := by cases h : s.asm <;> simp [State.start, h]
@[simp] theorem State.start_prev : (s.start).prev = s.prev := by cases h : s.asm <;> simp [State.start, h]
@[simp] theorem State.start_cursor : (s.start).cursor = 2 := rfl
@[simp] theorem State.start_asm : (s.start).asm = true := rfl
@[simp] theorem State.start_buf : (s.start).buf = (s.buf.set 0 Config.s0).set 1 Config.s1 := by cases h : s.asm <;> simp [State.start, h]
@[simp] theorem State.start_frameLen : (s.start).frameLen = s.frameLen := by cases h : s.asm <;> simp [State.start, h]
@[simp] theorem State.start_stopAckValid : (s.start).stopAckValid = s.stopAckValid := by cases h : s.asm <;> simp [State.start, h]
@[simp] theorem State.start_stopAckOk : (s.start).stopAckOk = s.stopAckOk := by cases h : s.asm <;> simp [State.start, h]
@[simp] theorem State.start_lastFlush : (s.start).lastFlush = s.lastFlush := by cases h : s.asm <;> simp [State.start, h]
@[simp] theorem State.start_reg : (s.start).reg = s.reg := by cases h : s.asm <;> simp [State.start, h]
@[simp] theorem State.start_q : (s.start).q = s.q := by cases h : s.asm <;> simp [State.start, h]
@[simp] theorem State.start_out : (s.start).out = s.out ++ (if s.asm then [.warn .asmResync] else []) := by cases h : s.asm <;> simp [State.start, h]
@[simp] theorem State.start_input : (s.start).input = s.input := by cases h : s.asm <;> simp [State.start, h]

end Sys2Proof.Machine
end

