-- ==== Sys2Proof/Laws/Ops.lean ====
section
/-! SUPPORT. For each shared operation, once, everything it can do. -/

namespace Sys2Proof.Machine

/-! ### Scans -/

theorem keyOf_eq_iff {a b : Report} : keyOf a = keyOf b ↔ a.tag = b.tag ∧ a.ant = b.ant := by simp [keyOf]

/-- ENQUEUE's scan finds nothing exactly when no entry has the report's key. -/
theorem replaceReport_eq_none {r : Report} {l : List Report} :
    replaceReport r l = none ↔ ∀ e ∈ l, keyOf e ≠ keyOf r := by
  induction l with
  | nil => simp [replaceReport]
  | cons e es ih =>
    by_cases h : e.tag = r.tag ∧ e.ant = r.ant
    · simp [replaceReport, h, keyOf_eq_iff]
    · rw [replaceReport, if_neg h]
      simp only [Option.map_eq_none_iff, ih, List.forall_mem_cons, keyOf_eq_iff, ne_eq, h, not_false_eq_true, true_and]

/-- ENQUEUE's scan replaces the first entry with the report's key and nothing else. -/
theorem replaceReport_eq_some {r : Report} {l l' : List Report} :
    replaceReport r l = some l' ↔
      ∃ pre e post, l = pre ++ e :: post ∧ (∀ x ∈ pre, keyOf x ≠ keyOf r) ∧ keyOf e = keyOf r ∧ l' = pre ++ r :: post := by
  induction l generalizing l' with
  | nil => simp [replaceReport]
  | cons e es ih =>
    by_cases h : e.tag = r.tag ∧ e.ant = r.ant
    · rw [replaceReport, if_pos h]
      constructor
      · intro he
        exact ⟨[], e, es, rfl, by simp, keyOf_eq_iff.2 h, by simpa using he.symm⟩
      · rintro ⟨pre, x, post, hl, hpre, hx, rfl⟩
        cases pre with
        | nil => simp at hl ⊢; exact hl.2
        | cons y pre =>
          simp only [List.cons_append, List.cons.injEq] at hl
          exact absurd (keyOf_eq_iff.2 (hl.1 ▸ h)) (hpre y (by simp))
    · rw [replaceReport, if_neg h, Option.map_eq_some_iff]
      constructor
      · rintro ⟨m, hm, rfl⟩
        obtain ⟨pre, x, post, rfl, hpre, hx, rfl⟩ := ih.1 hm
        refine ⟨e :: pre, x, post, rfl, ?_, hx, rfl⟩
        exact List.forall_mem_cons.2 ⟨fun hk => h (keyOf_eq_iff.1 hk), hpre⟩
      · rintro ⟨pre, x, post, hl, hpre, hx, rfl⟩
        cases pre with
        | nil =>
          simp only [List.nil_append, List.cons.injEq] at hl
          exact absurd (keyOf_eq_iff.1 (hl.1 ▸ hx)) h
        | cons y pre =>
          simp only [List.cons_append, List.cons.injEq] at hl
          obtain ⟨rfl, rfl⟩ := hl
          exact ⟨pre ++ r :: post, ih.2 ⟨pre, x, post, rfl, fun z hz => hpre z (by simp [hz]), hx, rfl⟩, rfl⟩

/-- OBSERVE's scan finds nothing exactly when no entry has the key. -/
theorem refreshEntry_eq_none {tag : Tag} {ant : Byte} {now : Nat} {l : List RegEntry} :
    refreshEntry tag ant now l = none ↔ ∀ e ∈ l, e.key ≠ (tag, ant) := by
  induction l with
  | nil => simp [refreshEntry]
  | cons e es ih =>
    by_cases h : e.tag = tag ∧ e.ant = ant
    · simp [refreshEntry, h, RegEntry.key]
    · rw [refreshEntry, if_neg h]
      simp only [Option.map_eq_none_iff, ih, List.forall_mem_cons, RegEntry.key, Prod.mk.injEq, ne_eq, h, not_false_eq_true, true_and]

/-- OBSERVE's scan refreshes the first entry with the key and nothing else. -/
theorem refreshEntry_eq_some {tag : Tag} {ant : Byte} {now : Nat} {l l' : List RegEntry} :
    refreshEntry tag ant now l = some l' ↔
      ∃ pre e post, l = pre ++ e :: post ∧ (∀ x ∈ pre, x.key ≠ (tag, ant)) ∧ e.key = (tag, ant) ∧
        l' = pre ++ { e with lastSeen := now } :: post := by
  induction l generalizing l' with
  | nil => simp [refreshEntry]
  | cons e es ih =>
    by_cases h : e.tag = tag ∧ e.ant = ant
    · rw [refreshEntry, if_pos h]
      constructor
      · intro he
        exact ⟨[], e, es, rfl, by simp, by simp [RegEntry.key, h], by simpa using he.symm⟩
      · rintro ⟨pre, x, post, hl, hpre, hx, rfl⟩
        cases pre with
        | nil => simp only [List.nil_append, List.cons.injEq] at hl; simp [hl.1, hl.2]
        | cons y pre =>
          simp only [List.cons_append, List.cons.injEq] at hl
          exact absurd (by simp [RegEntry.key, ← hl.1, h]) (hpre y (by simp))
    · rw [refreshEntry, if_neg h, Option.map_eq_some_iff]
      constructor
      · rintro ⟨m, hm, rfl⟩
        obtain ⟨pre, x, post, rfl, hpre, hx, rfl⟩ := ih.1 hm
        refine ⟨e :: pre, x, post, rfl, ?_, hx, rfl⟩
        exact List.forall_mem_cons.2 ⟨fun hk => h (by simpa [RegEntry.key] using hk), hpre⟩
      · rintro ⟨pre, x, post, hl, hpre, hx, rfl⟩
        cases pre with
        | nil =>
          simp only [List.nil_append, List.cons.injEq] at hl
          exact absurd (by simpa [RegEntry.key, hl.1] using hx) h
        | cons y pre =>
          simp only [List.cons_append, List.cons.injEq] at hl
          obtain ⟨rfl, rfl⟩ := hl
          exact ⟨_, ih.2 ⟨pre, x, post, rfl, fun z hz => hpre z (by simp [hz]), hx, rfl⟩, rfl⟩

/-! ### The caches -/

/-- Everything ENQUEUE can do (45_publish_queue R210). -/
theorem State.enqueue_cases (r : Report) (s : State) :
    (∃ pre e post, s.q = pre ++ e :: post ∧ (∀ x ∈ pre, keyOf x ≠ keyOf r) ∧ keyOf e = keyOf r ∧
      s.enqueue r = { s with q := pre ++ r :: post }) ∨
    ((∀ e ∈ s.q, keyOf e ≠ keyOf r) ∧ s.q.length < s.params.qCap ∧ s.enqueue r = { s with q := s.q ++ [r] }) ∨
    ((∀ e ∈ s.q, keyOf e ≠ keyOf r) ∧ s.params.qCap ≤ s.q.length ∧ s.enqueue r = s.warn .queueFull) := by
  unfold State.enqueue
  cases h : replaceReport r s.q with
  | some q' =>
    obtain ⟨pre, e, post, hq, hpre, he, rfl⟩ := replaceReport_eq_some.1 h
    exact .inl ⟨pre, e, post, hq, hpre, he, rfl⟩
  | none =>
    have hn := replaceReport_eq_none.1 h
    by_cases hl : s.q.length < s.params.qCap
    · exact .inr (.inl ⟨hn, hl, by simp [hl]⟩)
    · exact .inr (.inr ⟨hn, by omega, by simp [hl]⟩)

/-- Everything OBSERVE can do (44_tag_registry R190). -/
theorem State.observe_cases (tag : Tag) (ant : Byte) (now : Nat) (s : State) :
    (∃ pre e post, s.reg = pre ++ e :: post ∧ (∀ x ∈ pre, x.key ≠ (tag, ant)) ∧ e.key = (tag, ant) ∧
      s.observe tag ant now = { s with reg := pre ++ { e with lastSeen := now } :: post }) ∨
    ((∀ e ∈ s.reg, e.key ≠ (tag, ant)) ∧ s.reg.length < s.params.regCap ∧
      s.observe tag ant now = { s with reg := s.reg ++ [⟨tag, ant, now⟩] }) ∨
    ((∀ e ∈ s.reg, e.key ≠ (tag, ant)) ∧ s.params.regCap ≤ s.reg.length ∧ s.observe tag ant now = s.warn .regFull) := by
  unfold State.observe
  cases h : refreshEntry tag ant now s.reg with
  | some reg' =>
    obtain ⟨pre, e, post, hq, hpre, he, rfl⟩ := refreshEntry_eq_some.1 h
    exact .inl ⟨pre, e, post, hq, hpre, he, rfl⟩
  | none =>
    have hn := refreshEntry_eq_none.1 h
    by_cases hl : s.reg.length < s.params.regCap
    · exact .inr (.inl ⟨hn, hl, by simp [hl]⟩)
    · exact .inr (.inr ⟨hn, by omega, by simp [hl]⟩)

/-- ENQUEUE changes the queue and the output sequence, the latter by at most one QUEUE_FULL. -/
theorem State.enqueue_frame (r : Report) (s : State) :
    ∃ q' evs, s.enqueue r = { s with q := q', out := s.out ++ evs } ∧ (evs = [] ∨ evs = [.warn .queueFull]) := by
  rcases s.enqueue_cases r with ⟨pre, e, post, -, -, -, h⟩ | ⟨-, -, h⟩ | ⟨-, -, h⟩
  · exact ⟨pre ++ r :: post, [], by simp [h], .inl rfl⟩
  · exact ⟨s.q ++ [r], [], by simp [h], .inl rfl⟩
  · exact ⟨s.q, [.warn .queueFull], by simp [h, State.warn, State.emit, State.emitAll], .inr rfl⟩

/-- OBSERVE changes the registry and the output sequence, the latter by at most one REG_FULL. -/
theorem State.observe_frame (tag : Tag) (ant : Byte) (now : Nat) (s : State) :
    ∃ reg' evs, s.observe tag ant now = { s with reg := reg', out := s.out ++ evs } ∧ (evs = [] ∨ evs = [.warn .regFull]) := by
  rcases s.observe_cases tag ant now with ⟨pre, e, post, -, -, -, h⟩ | ⟨-, -, h⟩ | ⟨-, -, h⟩
  · exact ⟨pre ++ { e with lastSeen := now } :: post, [], by simp [h], .inl rfl⟩
  · exact ⟨s.reg ++ [⟨tag, ant, now⟩], [], by simp [h], .inl rfl⟩
  · exact ⟨s.reg, [.warn .regFull], by simp [h, State.warn, State.emit, State.emitAll], .inr rfl⟩

/-! ### Decoder and validator -/

/-- Everything DEC_TAG_SEEN changes: the two caches, and REG_FULL before QUEUE_FULL in the output. -/
theorem State.decTagSeen_frame (now : Nat) (s : State) :
    ∃ reg' q' e1 e2, s.decTagSeen now = { s with reg := reg', q := q', out := s.out ++ e1 ++ e2 } ∧
      (e1 = [] ∨ e1 = [.warn .regFull]) ∧ (e2 = [] ∨ e2 = [.warn .queueFull]) := by
  unfold State.decTagSeen
  obtain ⟨reg', e1, h1, he1⟩ := s.observe_frame s.report.tag s.report.ant now
  obtain ⟨q', e2, h2, he2⟩ := (s.observe s.report.tag s.report.ant now).enqueue_frame s.report
  exact ⟨reg', q', e1, e2, by rw [h2, h1], he1, he2⟩

/-- Everything DISPATCH can do (43_field_decoder R160). -/
theorem State.dispatch_cases (now : Nat) (s : State) :
    (s.opcode = Config.opTagSeen ∧ s.dispatch now = s.decTagSeen now) ∨
    (s.opcode = Config.opStopAck ∧ s.dispatch now = s.decStopAck) ∨
    (s.opcode ≠ Config.opTagSeen ∧ s.opcode ≠ Config.opStopAck ∧ s.dispatch now = s) := by
  unfold State.dispatch
  by_cases h1 : s.opcode = Config.opTagSeen
  · exact .inl ⟨h1, by simp [h1]⟩
  · by_cases h2 : s.opcode = Config.opStopAck
    · exact .inr (.inl ⟨h2, by rw [if_neg h1, if_pos h2]⟩)
    · exact .inr (.inr ⟨h1, h2, by rw [if_neg h1, if_neg h2]; rfl⟩)

/-- Everything VALIDATE can do (42_frame_validator R140). -/
theorem State.validate_cases (now : Nat) (s : State) :
    (∃ code, s.verdict = some code ∧ s.validate now = s.warn code) ∨ (s.verdict = none ∧ s.validate now = s.dispatch now) := by
  unfold State.validate
  cases h : s.verdict with
  | some code => exact .inl ⟨code, rfl, rfl⟩
  | none => exact .inr ⟨rfl, rfl⟩

/-- VALIDATE and everything it triggers leave the assembler's state, the cadence, the parameters and the port alone, and only
append warnings. -/
theorem State.validate_frame (now : Nat) (s : State) :
    ∃ reg' q' v ok evs, s.validate now =
      { s with reg := reg', q := q', stopAckValid := v, stopAckOk := ok, out := s.out ++ evs } ∧ (∀ e ∈ evs, isWarn e = true) := by
  rcases s.validate_cases now with ⟨code, -, h⟩ | ⟨-, h⟩
  · exact ⟨s.reg, s.q, s.stopAckValid, s.stopAckOk, [.warn code], by simp [h, State.warn, State.emit, State.emitAll],
      by simp [isWarn]⟩
  · rw [h]
    rcases s.dispatch_cases now with ⟨-, h⟩ | ⟨-, h⟩ | ⟨-, -, h⟩
    · obtain ⟨reg', q', e1, e2, ht, h1, h2⟩ := s.decTagSeen_frame now
      refine ⟨reg', q', s.stopAckValid, s.stopAckOk, e1 ++ e2, by rw [h, ht]; simp, ?_⟩
      rcases h1 with rfl | rfl <;> rcases h2 with rfl | rfl <;> simp [isWarn]
    · exact ⟨s.reg, s.q, true, s.stopSuccess, [], by simp [h, State.decStopAck], by simp⟩
    · exact ⟨s.reg, s.q, s.stopAckValid, s.stopAckOk, [], by simp [h], by simp⟩

/-! ### The assembler's path -/

/-- The path a byte takes, with the condition it was chosen by (41_frame_assembler R127). -/
theorem State.selectPath_cases (b : Byte) (s : State) :
    (s.selectPath b = .start ∧ s.prev = Config.s0 ∧ b = Config.s1) ∨
    (¬(s.prev = Config.s0 ∧ b = Config.s1) ∧
      ((s.selectPath b = .endFrame ∧ s.asm = true ∧ s.prev = Config.e0 ∧ b = Config.e1 ∧ s.cursor < s.params.cap) ∨
       (s.selectPath b = .endOvf ∧ s.asm = true ∧ s.prev = Config.e0 ∧ b = Config.e1 ∧ s.params.cap ≤ s.cursor) ∨
       (s.selectPath b = .accOvf ∧ s.asm = true ∧ ¬(s.prev = Config.e0 ∧ b = Config.e1) ∧ s.params.cap ≤ s.cursor) ∨
       (s.selectPath b = .acc ∧ s.asm = true ∧ ¬(s.prev = Config.e0 ∧ b = Config.e1) ∧ s.cursor < s.params.cap) ∨
       (s.selectPath b = .discard ∧ s.asm = false))) := by
  unfold State.selectPath
  by_cases h1 : s.prev = Config.s0 ∧ b = Config.s1
  · exact .inl ⟨by rw [if_pos h1], h1⟩
  · refine .inr ⟨h1, ?_⟩
    rw [if_neg h1]
    cases ha : s.asm with
    | false => simp
    | true =>
      by_cases h2 : s.prev = Config.e0 ∧ b = Config.e1
      · by_cases hc : s.cursor < s.params.cap <;> simp [h2, hc]
        omega
      · have h2' : s.prev = Config.e0 → ¬ b = Config.e1 := fun h h' => h2 ⟨h, h'⟩
        by_cases hc : s.params.cap ≤ s.cursor
        · rw [if_neg (by simpa using h2'), if_pos rfl, if_pos hc]
          exact .inr (.inr (.inl ⟨rfl, rfl, h2, hc⟩))
        · rw [if_neg (by simpa using h2'), if_pos rfl, if_neg hc]
          exact .inr (.inr (.inr (.inl ⟨rfl, rfl, h2, by omega⟩)))

/-- START is taken on the start pair, whatever else holds. -/
theorem State.selectPath_start {s : State} {b : Byte} (hp : s.prev = Config.s0) (hb : b = Config.s1) :
    s.selectPath b = .start := by
  unfold State.selectPath; rw [if_pos ⟨hp, hb⟩]

/-- END is taken on the end pair with room for `E1`. -/
theorem State.selectPath_endFrame {s : State} {b : Byte} (ha : s.asm = true) (hp : s.prev = Config.e0) (hb : b = Config.e1)
    (hc : s.cursor < s.params.cap) : s.selectPath b = .endFrame := by
  unfold State.selectPath
  rw [if_neg (by rw [hp, hb]; decide), if_pos ⟨ha, hp, hb⟩, if_pos hc]

/-- END_OVF is taken on the end pair with the buffer full. -/
theorem State.selectPath_endOvf {s : State} {b : Byte} (ha : s.asm = true) (hp : s.prev = Config.e0) (hb : b = Config.e1)
    (hc : s.params.cap ≤ s.cursor) : s.selectPath b = .endOvf := by
  unfold State.selectPath
  rw [if_neg (by rw [hp, hb]; decide), if_pos ⟨ha, hp, hb⟩, if_neg (by omega)]

/-- ACC is taken while assembling, on neither pair, with room. -/
theorem State.selectPath_acc {s : State} {b : Byte} (ha : s.asm = true) (hs : ¬(s.prev = Config.s0 ∧ b = Config.s1))
    (he : ¬(s.prev = Config.e0 ∧ b = Config.e1)) (hc : s.cursor < s.params.cap) : s.selectPath b = .acc := by
  unfold State.selectPath
  rw [if_neg hs, if_neg (fun h => he h.2), if_pos ha, if_neg (by omega)]

/-- ACC_OVF is taken while assembling, on neither pair, with the buffer full. -/
theorem State.selectPath_accOvf {s : State} {b : Byte} (ha : s.asm = true) (hs : ¬(s.prev = Config.s0 ∧ b = Config.s1))
    (he : ¬(s.prev = Config.e0 ∧ b = Config.e1)) (hc : s.params.cap ≤ s.cursor) : s.selectPath b = .accOvf := by
  unfold State.selectPath
  rw [if_neg hs, if_neg (fun h => he h.2), if_pos ha, if_pos hc]

/-- DISCARD is taken while idle, not on the start pair. -/
theorem State.selectPath_discard {s : State} {b : Byte} (ha : s.asm = false) (hs : ¬(s.prev = Config.s0 ∧ b = Config.s1)) :
    s.selectPath b = .discard := by
  unfold State.selectPath
  rw [if_neg hs, if_neg (by simp [ha]), if_neg (by simp [ha])]

/-! ### Outcomes -/

@[simp] theorem onBuffer_true (t : State) : onBuffer true t = .next t := rfl
@[simp] theorem onBuffer_false (t : State) : onBuffer false t = .fault .bufferIndex := rfl

theorem onBuffer_eq_next {inside : Bool} {t u : State} : onBuffer inside t = .next u ↔ inside = true ∧ t = u := by
  cases inside <;> simp [onBuffer]

theorem onBuffer_eq_fault {inside : Bool} {t : State} : onBuffer inside t = .fault .bufferIndex ↔ inside = false := by
  cases inside <;> simp [onBuffer]

/-- `age` as an integer is the modular difference of 40_host_step R105. -/
theorem age_cast (clockW now t : Nat) : ((age clockW now t : Nat) : Int) = ((now : Int) - t) % ((2 ^ clockW : Nat) : Int) := by
  unfold age
  exact Int.toNat_of_nonneg (Int.emod_nonneg _ (by positivity))

/-- BYTE is its selected path and then `prev <- b` (40_host_step R102). -/
theorem execByte_of_path {s : State} {b : Byte} {path : AssemblerPath} (now : Nat) (h : s.selectPath b = path) :
    execByte b now s = onBuffer (s.pathInBuffer path) { s.runPath path b now with prev := b } := by
  rw [← h]; rfl

/-- Everything a step can do: nothing where no command is present, else the decoded command's meaning with that command taken. -/
theorem step_cases (s : State) :
    (s.input = [] ∧ step s = .next s) ∨
    (∃ c rest, s.input = c :: rest ∧ step s = exec (decodeCommand s.params.clockW c) { s with input := rest }) := by
  unfold step State.takeCommand
  cases h : s.input with
  | nil => exact .inl ⟨rfl, rfl⟩
  | cons c rest => exact .inr ⟨c, rest, rfl, rfl⟩

/-- What a command word decodes to, by its `op` field. -/
theorem decodeCommand_cases (clockW : Nat) (c : Command) :
    (c.op = 0 ∧ decodeCommand clockW c = .reset) ∨
    (c.op = 1 ∧ decodeCommand clockW c = .byte c.data (c.clock clockW)) ∨
    (c.op = 2 ∧ decodeCommand clockW c = .check (c.clock clockW)) ∨
    (c.op = 3 ∧ decodeCommand clockW c = .reservedOp3) := by
  unfold decodeCommand
  have h : ∀ op : BitVec 2, op = 0 ∨ op = 1 ∨ op = 2 ∨ op = 3 := by decide
  rcases h c.op with h | h | h | h <;> simp [h]

/-- The clock operand a command decodes with fits the port. -/
theorem Command.clock_lt (clockW : Nat) (c : Command) : c.clock clockW < 2 ^ clockW := Nat.mod_lt _ (by positivity)

end Sys2Proof.Machine
end

