-- ==== Sys2Proof/Laws/Validator.lean ====
section
/-! SUPPORT. The validator's checks in the terms of 42_frame_validator: bytes read and natural arithmetic. -/

namespace Sys2Proof.Machine

theorem State.memRead_two (s : State) (i : Nat) : s.memRead i 2 = (s.read i).toNat * 256 + (s.read (i + 1)).toNat := by
  simp [State.memRead]

theorem State.memRead_three (s : State) (i : Nat) :
    s.memRead i 3 = (s.read i).toNat * 65536 + (s.read (i + 1)).toNat * 256 + (s.read (i + 2)).toNat := by
  simp [State.memRead, Nat.add_assoc]

theorem State.dataLength_eq (s : State) : s.dataLength = (s.read 2).toNat * 256 + (s.read 3).toNat := s.memRead_two 2

theorem State.startOk_iff (s : State) : s.startOk = true ↔ s.read 0 = 0xA5 ∧ s.read 1 = 0x5A := by
  unfold State.startOk; rw [Bool.and_eq_true, decide_eq_true_iff, decide_eq_true_iff]; rfl

theorem State.endOk_iff (s : State) :
    s.endOk = true ↔ s.read (s.frameLen - 2) = 0x0D ∧ s.read (s.frameLen - 1) = 0x0A := by
  unfold State.endOk; rw [Bool.and_eq_true, decide_eq_true_iff, decide_eq_true_iff]; rfl

theorem State.lengthOk_iff (s : State) : s.lengthOk = true ↔ 3 ≤ s.dataLength ∧ s.dataLength < s.frameLen + 3 := by
  unfold State.lengthOk State.checksumIndex
  rw [Bool.and_eq_true, decide_eq_true_iff, decide_eq_true_iff]
  omega

theorem State.checksumIndex_toNat (s : State) : s.checksumIndex.toNat = s.dataLength - 3 := by
  unfold State.checksumIndex; omega

theorem State.checksumOk_iff (s : State) :
    s.checksumOk = true ↔ s.xorFold (s.dataLength - 3) = s.read (s.dataLength - 3) := by
  unfold State.checksumOk; rw [decide_eq_true_iff, s.checksumIndex_toNat]

/-- A frame passes exactly when it passes every check (42_frame_validator R145). -/
theorem State.verdict_eq_none (s : State) :
    s.verdict = none ↔ s.startOk = true ∧ s.endOk = true ∧ s.lengthOk = true ∧ s.checksumOk = true := by
  unfold State.verdict
  cases s.startOk <;> cases s.endOk <;> cases s.lengthOk <;> cases s.checksumOk <;> simp

/-- The fold as the spec writes it: over every `i` with `1 < i < n` (30_encoding R78). -/
theorem range_filter_gt_one (n : Nat) : (List.range n).filter (1 < ·) = List.range' 2 (n - 2) := by
  induction n with
  | zero => rfl
  | succ n ih =>
    rw [List.range_succ, List.filter_append, ih]
    by_cases h : 1 < n
    · rw [show n + 1 - 2 = (n - 2) + 1 by omega, List.range'_concat]
      simp [h]
      omega
    · have : n = 0 ∨ n = 1 := by omega
      rcases this with rfl | rfl <;> rfl

theorem State.xorFold_eq_foldl (s : State) (ci : Nat) :
    s.xorFold ci = ((List.range ci).filter (1 < ·)).foldl (fun acc i => acc ^^^ s.read i) 0x00 := by
  rw [range_filter_gt_one]
  simp [State.xorFold, xorBytes, List.foldl_map]

/-- Where VALIDATE's reads lie in the buffer, it answers a next state. -/
theorem execValidate_eq_next {s : State} (now : Nat) (h2 : 2 ≤ s.frameLen) (hc : s.frameLen ≤ s.params.cap) :
    execValidate now s = .next (s.validate now) := by
  simp [execValidate, State.frameInBuffer, h2, hc]

/-- The verdict is a function of the frame's length and its bytes alone (42_frame_validator R140). -/
theorem State.verdict_congr {s t : State} (h2 : 4 ≤ s.frameLen) (hl : t.frameLen = s.frameLen)
    (h : ∀ i, i < s.frameLen → t.read i = s.read i) : t.verdict = s.verdict := by
  have hst : t.startOk = s.startOk := by
    rw [Bool.eq_iff_iff, t.startOk_iff, s.startOk_iff, h 0 (by omega), h 1 (by omega)]
  have hen : t.endOk = s.endOk := by
    rw [Bool.eq_iff_iff, t.endOk_iff, s.endOk_iff, hl, h _ (by omega), h _ (by omega)]
  have hdl : t.dataLength = s.dataLength := by rw [t.dataLength_eq, s.dataLength_eq, h 2 (by omega), h 3 (by omega)]
  have hle : t.lengthOk = s.lengthOk := by rw [Bool.eq_iff_iff, t.lengthOk_iff, s.lengthOk_iff, hdl, hl]
  unfold State.verdict
  rw [hst, hen, hle]
  by_cases hlo : s.lengthOk = true
  · have hb := (s.lengthOk_iff).1 hlo
    have hck : t.checksumOk = s.checksumOk := by
      rw [Bool.eq_iff_iff, t.checksumOk_iff, s.checksumOk_iff, hdl, h _ (by omega)]
      have hm : (List.range' 2 (s.dataLength - 3 - 2)).map t.read = (List.range' 2 (s.dataLength - 3 - 2)).map s.read := by
        refine List.map_congr_left fun i hi => h i ?_
        rw [List.mem_range'_1] at hi
        omega
      rw [State.xorFold, State.xorFold, hm]
    rw [hck]
  · simp [hlo]

end Sys2Proof.Machine
end

