-- ==== Sys2Proof/Laws/PerInstr.lean ====
section
/-! SUPPORT. Facts of every instruction as syntax, one lemma per constructor of `Instr`. -/

namespace Sys2Proof.Laws

/-- An instruction's encoding is of the kind its row's format says: a command word for a host command, an opcode byte for a frame
opcode, none for an internal operation (30_encoding R70, R84). -/
def EncodingKind.Statement (i : Instr) : Prop :=
  match encode i with
  | some (.command _) => i.format = .hostCmd
  | some (.opcode _) => i.format = .frameOpcode
  | none => i.format = .internal

theorem EncodingKind.reset : EncodingKind.Statement .reset := rfl
theorem EncodingKind.byte (b : Byte) (now : Nat) : EncodingKind.Statement (.byte b now) := rfl
theorem EncodingKind.check (now : Nat) : EncodingKind.Statement (.check now) := rfl
theorem EncodingKind.reservedOp3 : EncodingKind.Statement .reservedOp3 := rfl
theorem EncodingKind.tagSeen (now : Nat) : EncodingKind.Statement (.tagSeen now) := rfl
theorem EncodingKind.stopAck : EncodingKind.Statement .stopAck := rfl
theorem EncodingKind.other (opcode : Byte) : EncodingKind.Statement (.other opcode) := rfl
theorem EncodingKind.start (b : Byte) : EncodingKind.Statement (.start b) := rfl
theorem EncodingKind.endFrame (now : Nat) : EncodingKind.Statement (.endFrame now) := rfl
theorem EncodingKind.endOvf : EncodingKind.Statement .endOvf := rfl
theorem EncodingKind.accOvf (b : Byte) : EncodingKind.Statement (.accOvf b) := rfl
theorem EncodingKind.acc (b : Byte) : EncodingKind.Statement (.acc b) := rfl
theorem EncodingKind.discard (b : Byte) : EncodingKind.Statement (.discard b) := rfl
theorem EncodingKind.validate (now : Nat) : EncodingKind.Statement (.validate now) := rfl
theorem EncodingKind.dispatch (now : Nat) : EncodingKind.Statement (.dispatch now) := rfl
theorem EncodingKind.observe (tag : Tag) (ant : Byte) (now : Nat) : EncodingKind.Statement (.observe tag ant now) := rfl
theorem EncodingKind.enqueue (r : Report) : EncodingKind.Statement (.enqueue r) := rfl
theorem EncodingKind.drain : EncodingKind.Statement .drain := rfl
theorem EncodingKind.sweep (now : Nat) : EncodingKind.Statement (.sweep now) := rfl

end Sys2Proof.Laws
end

