-- ==== Sys2Proof/Tests/Slice0.lean ====
section
/-! SUPPORT. Tests whose expected results are the spec's own (95_test_vectors), the refusals of `Instr.wf`, and a witness for the
hypotheses of every statement that has some. -/

namespace Sys2Proof.Tests

open Sys2Proof Sys2Proof.Machine

/-! ### Small states -/

/-- An instance with small sizes and the example intervals of 95_test_vectors. -/
def small : Params := ⟨32, 2, 2, 32, 5000, 1000, by decide, by decide, by decide, by decide⟩

/-- That instance after reset. -/
def idle : State := State.resetWith small [] []

/-- A start marker was just seen. -/
def started : State := { idle with prev := 0x5A, cursor := 2, asm := true, buf := [(0, 0xA5), (1, 0x5A)] }

/-- The buffer is full and holds an `E0` in its last byte (V-A7). -/
def fullArmed : State :=
  { idle with prev := 0x0D, cursor := 32, asm := true, buf := [(0, 0xA5), (1, 0x5A), (31, 0x0D)] }

/-- The buffer is full (V-A6). -/
def full : State := { idle with prev := 0x11, cursor := 32, asm := true, buf := [(0, 0xA5), (1, 0x5A), (31, 0x11)] }

/-- `A5 5A 00 05 83 0D` has been assembled (V-A11 up to its last byte). -/
def ending : State :=
  { idle with prev := 0x0D, cursor := 6, asm := true, buf := [(0, 0xA5), (1, 0x5A), (3, 0x05), (4, 0x83), (5, 0x0D)] }

/-- A buffer that holds a completed frame. -/
def framed (bytes : List Byte) : State := { idle.writeBytes 0 bytes with frameLen := bytes.length }

/-- The reference tag T. -/
def tagT : Tag := #v[0xE2, 0x00, 0x34, 0x11, 0xB8, 0x02, 0x01, 0x13, 0x83, 0x25, 0x85, 0x66]

/-- A second tag. -/
def tagB : Tag := #v[0xE2, 0, 0, 0, 0, 0, 0, 0, 0, 0, 0, 0x01]

/-- The bytes of E1, written out from 95_test_vectors. -/
def e1Bytes : List Byte :=
  [0xA5, 0x5A, 0x00, 0x1D, 0x83, 0x30, 0x00, 0xE2, 0x00, 0x34, 0x11, 0xB8, 0x02, 0x01, 0x13, 0x83, 0x25, 0x85, 0x66, 0xFD, 0x6F,
    0x02, 0x0D, 0xF7, 0x32, 0x2D, 0xF1, 0x0D, 0x0A]

/-- The report of E2. -/
def e2Report : Report := ⟨0x83, 0x3000, tagT, 0xFD6F, 2, 0x0DF732, 45, 143⟩

/-- A report of a tag with a strength, for the queue. -/
def rep (tag : Tag) (s5 : Int) : Report := ⟨0x83, 0, tag, 0, 1, 0, 0, s5⟩

/-- The state after a step or an instruction, where there is one. -/
def after (o : Host.Outcome State Fault Refusal) : Option State :=
  match o with
  | .next t => some t
  | .fault _ => none
  | .refused _ => none

/-! ### Well-formedness refuses -/

theorem wf_refuses_wide_now_byte : (Instr.byte 0 4294967296).wf 32 = false := by decide
theorem wf_refuses_wide_now_check : (Instr.check 4294967296).wf 32 = false := by decide
theorem wf_refuses_wide_now_tagSeen : (Instr.tagSeen 4294967296).wf 32 = false := by decide
theorem wf_refuses_tag_seen_as_other : (Instr.other 0x83).wf 32 = false := by decide
theorem wf_refuses_stop_ack_as_other : (Instr.other 0x8D).wf 32 = false := by decide
theorem wf_refuses_start_of_other_byte : (Instr.start 0xA5).wf 32 = false := by decide
theorem wf_refuses_wide_now_endFrame : (Instr.endFrame 4294967296).wf 32 = false := by decide
theorem wf_refuses_wide_now_validate : (Instr.validate 4294967296).wf 32 = false := by decide
theorem wf_refuses_wide_now_dispatch : (Instr.dispatch 4294967296).wf 32 = false := by decide
theorem wf_refuses_wide_now_observe : (Instr.observe tagT 1 4294967296).wf 32 = false := by decide
theorem wf_refuses_wide_now_sweep : (Instr.sweep 4294967296).wf 32 = false := by decide
theorem wf_refuses_report_opcode : (Instr.enqueue { rep tagT 0 with opcode := 0x8D }).wf 32 = false := by decide
theorem wf_refuses_strength_below_range : (Instr.enqueue (rep tagT (-64736))).wf 32 = false := by decide
theorem wf_refuses_strength_above_range : (Instr.enqueue (rep tagT 801)).wf 32 = false := by decide
theorem wf_admits_e2_report : (Instr.enqueue e2Report).wf 32 = true := by decide

/-! ### Words written out bit by bit from 30_encoding R75, R83, R80 -/

theorem decode_reset : decodeCommand 32 ⟨0b0000000000, 9⟩ = .reset := by decide
theorem decode_reset_ignores_data : decodeCommand 32 ⟨0b0011111111, 0⟩ = .reset := by decide
theorem decode_byte_A5 : decodeCommand 32 ⟨0b0110100101, 7⟩ = .byte 0xA5 7 := by decide
theorem decode_check : decodeCommand 32 ⟨0b1011000011, 1000⟩ = .check 1000 := by decide
theorem decode_reservedOp3 : decodeCommand 32 ⟨0b1100000000, 0⟩ = .reservedOp3 := by decide
theorem decode_tagSeen : decodeOpcode 0b10000011 7 = .tagSeen 7 := by decide
theorem decode_stopAck : decodeOpcode 0b10001101 7 = .stopAck := by decide
theorem decode_other : decodeOpcode 0b00001101 7 = .other 0x0D := by decide
theorem decode_keeps_the_clock_wires : decodeCommand 32 ⟨0x200, 4294967301⟩ = .check 5 := by decide
theorem encode_e1_frame : tagFrameBytes 0x3000 tagT 0xFD6F 0x02 0x0DF732 0x2D = e1Bytes := by decide
theorem encode_e3_frame : stopFrameBytes 0x01 = [0xA5, 0x5A, 0x00, 0x09, 0x8D, 0x01, 0x85, 0x0D, 0x0A] := by decide
theorem tableWord_byte : decodeTableWord 16 0x1A5 = some (.byte 0xA5 0) := by decide
theorem tableWord_stopAck : decodeTableWord 8 0x8D = some .stopAck := by decide

/-! ### One step or one operation each: the vectors of 95_test_vectors -/

theorem test_fetch_tagSeen :
    (after (step (State.reset.withFetchWord 8 0x83))).map (·.reg) = some [⟨Vector.replicate 12 0, 0, 0⟩] := by decide
theorem test_fetch_stopAck :
    (after (step (State.reset.withFetchWord 8 0x8D))).map (fun t => (t.stopAckValid, t.stopAckOk)) = some (true, false) := by decide
theorem test_fetch_byte : (after (step (State.reset.withFetchWord 16 0x1A5))).map (·.prev) = some 0xA5 := by decide

/-- V-H2 -/
theorem test_reset : exec .reset full = .next idle := rfl
/-- V-H4 -/
theorem test_byte_start :
    (after (exec (.byte 0x5A 7) { idle with prev := 0xA5 })).map (fun t => (t.asm, t.cursor, t.buf, t.prev)) =
      some (true, 2, started.buf, 0x5A) := by decide
/-- V-A11, V-A12 on a buffer of zeros -/
theorem test_byte_end :
    (after (exec (.byte 0x0A 200) ending)).map (fun t => (t.frameLen, t.cursor, t.asm, t.q.map (·.product))) =
      some (7, 0, false, [0x0D0A]) := by decide
/-- V-H5, V-C1 -/
theorem test_check_fires : exec (.check 1000) idle = .next { idle with lastFlush := 1000 } := by rfl
/-- V-C1 -/
theorem test_check_waits : exec (.check 999) idle = .next idle := by rfl
/-- V-H6 -/
theorem test_reservedOp3 : exec .reservedOp3 idle = .refused .reservedCommand := rfl
/-- V-A4: ASM_RESYNC -/
theorem test_start_resync : (after (exec (.start 0x5A) ending)).map (fun t => (t.cursor, t.out)) = some (2, [.warn .asmResync]) := by
  decide
/-- V-A7 -/
theorem test_endOvf : (after (exec (.byte 0x0A 0) fullArmed)).map (fun t => (t.cursor, t.asm, t.buf, t.out)) =
    some (29, true, fullArmed.buf, [.warn .asmOverflow]) := by decide
/-- V-A6 -/
theorem test_accOvf : (after (exec (.byte 0x22 0) full)).map (fun t => (t.cursor, t.read 29, t.out)) =
    some (30, 0x22, [.warn .asmOverflow]) := by decide
/-- R124's example -/
theorem test_acc : (after (exec (.acc 0x77) started)).map (fun t => (t.cursor, t.read 2)) = some (3, 0x77) := by decide
/-- R126 -/
theorem test_discard : (after (exec (.byte 0x0A 0) { idle with prev := 0x0D })).map (·.prev) = some 0x0A := by decide
/-- V-V1, V-V2, V-V3, V-V4, V-V10, V-V11, V-V12, V-V13 -/
theorem test_verdicts :
    (framed e1Bytes).verdict = none ∧ (framed (e1Bytes.set 10 0x10)).verdict = some .rejChecksum ∧
    (framed (e1Bytes.set 2 0x01)).verdict = some .rejLength ∧ (framed (e1Bytes.set 3 0x05)).verdict = none ∧
    (framed [0xA5, 0x5A, 0x00, 0x03, 0x0D, 0x0A]).verdict = some .rejChecksum ∧
    (framed [0xA5, 0x5A, 0x00, 0x02, 0x0D, 0x0A]).verdict = some .rejLength ∧
    (framed [0x00, 0x5A, 0x00, 0x1D, 0x0D, 0x0A]).verdict = some .rejStart ∧
    (framed [0xA5, 0x5A, 0x00, 0x05, 0x0D, 0x0B]).verdict = some .rejEnd := by decide
/-- E1, E2, V-A1 -/
theorem test_validate_e1 : (after (exec (.validate 100) (framed e1Bytes))).map (fun t => (t.reg, t.q)) =
    some ([⟨tagT, 2, 100⟩], [e2Report]) := by decide
/-- V-D4 -/
theorem test_dispatch_other : exec (.dispatch 1) (framed (e1Bytes.set 4 0x84)) = .next (framed (e1Bytes.set 4 0x84)) := by rfl
/-- V-V14 -/
theorem test_stopAck_failure :
    (after (exec .stopAck (framed [0xA5, 0x5A, 0x00, 0x09, 0x8D, 0x02, 0x86, 0x0D, 0x0A]))).map
      (fun t => (t.stopAckValid, t.stopAckOk)) = some (true, false) := by decide
/-- V-R4 -/
theorem test_observe_full :
    (after (exec (.observe tagB 1 400) { idle with reg := [⟨tagT, 1, 200⟩, ⟨tagT, 2, 300⟩] })).map (fun t => (t.reg, t.out)) =
      some ([⟨tagT, 1, 200⟩, ⟨tagT, 2, 300⟩], [.warn .regFull]) := by decide
/-- V-R7: ages across the wrap -/
theorem test_sweep_wrap :
    (after (exec (.sweep 0x100) { idle with reg := [⟨tagT, 1, 0xFFFFFF00⟩, ⟨tagB, 1, 1000⟩] })).map (fun t => (t.reg, t.out)) =
      some ([⟨tagT, 1, 0xFFFFFF00⟩], [.pub .gone tagB 1 0]) := by decide
/-- V-Q5 -/
theorem test_enqueue_replace :
    (after (exec (.enqueue (rep tagT 7)) { idle with q := [rep tagT 1, rep tagB 2] })).map (·.q) = some [rep tagT 7, rep tagB 2] := by
  decide
/-- V-Q1's drain -/
theorem test_drain : (after (exec .drain { idle with q := [rep tagT 500, rep tagB 100] })).map (fun t => (t.q, t.out)) =
    some ([], [.pub .seen tagT 1 500, .pub .seen tagB 1 100]) := by decide
/-- V-D1: the hex rendering of T (R170) -/
theorem test_render : renderHex tagT.toList = "e2003411b802011383258566".toList := by decide
/-- R232 -/
theorem test_warning_codes : [WarnCode.asmOverflow, .asmResync, .rejStart, .rejEnd, .rejLength, .rejChecksum, .regFull, .queueFull].map
    WarnCode.code = [1, 2, 3, 4, 5, 6, 7, 8] := by decide
/-- R104: events of a firing CHECK, SEEN before GONE (V-R6) -/
theorem test_check_seen_then_gone :
    (after (exec (.check 10000) { idle with reg := [⟨tagT, 2, 100⟩], q := [e2Report] })).map (fun t => (t.reg, t.q, t.out)) =
      some ([], [], [.pub .seen tagT 2 143, .pub .gone tagT 2 0]) := by decide

/-! ### The invariants hold of the states above -/

theorem idle_inv : Inv idle :=
  ⟨by decide, by decide, by decide, by decide, by decide, by decide, by decide, ⟨by decide, by decide, by decide⟩,
    ⟨by decide, by decide, by decide, by decide⟩⟩
theorem idleArmed_inv : Inv { idle with prev := 0xA5 } :=
  ⟨by decide, by decide, by decide, by decide, by decide, by decide, by decide, ⟨by decide, by decide, by decide⟩,
    ⟨by decide, by decide, by decide, by decide⟩⟩
theorem started_inv : Inv started :=
  ⟨by decide, by decide, by decide, by decide, by decide, by decide, by decide, ⟨by decide, by decide, by decide⟩,
    ⟨by decide, by decide, by decide, by decide⟩⟩
theorem full_inv : Inv full :=
  ⟨by decide, by decide, by decide, by decide, by decide, by decide, by decide, ⟨by decide, by decide, by decide⟩,
    ⟨by decide, by decide, by decide, by decide⟩⟩
theorem fullArmed_inv : Inv fullArmed :=
  ⟨by decide, by decide, by decide, by decide, by decide, by decide, by decide, ⟨by decide, by decide, by decide⟩,
    ⟨by decide, by decide, by decide, by decide⟩⟩
theorem ending_inv : Inv ending :=
  ⟨by decide, by decide, by decide, by decide, by decide, by decide, by decide, ⟨by decide, by decide, by decide⟩,
    ⟨by decide, by decide, by decide, by decide⟩⟩

/-! ### Witnesses: states and operands that meet a statement's hypotheses together -/

theorem witness_CommandWordsFollowMatchAndMask :
    4294967295 < 2 ^ 32 ∧ (0x0FF : BitVec 10) &&& 0x300 = 0x000 ∧ (0x1FF : BitVec 10) &&& 0x300 = 0x100 ∧ (0x2C3 : BitVec 10) &&& 0x300 = 0x200 ∧
      (0x3FF : BitVec 10) &&& 0x300 = 0x300 := by decide
theorem witness_DecodeOfEncodeIsTheInstruction :
    ((Instr.byte 0xFF 4294967295).wf 32 = true ∧ (Instr.byte 0xFF 4294967295).format = .hostCmd) ∧
    ((Instr.tagSeen 7).wf 32 = true ∧ (Instr.tagSeen 7).format = .frameOpcode ∧ ∀ t, Instr.tagSeen 7 = .tagSeen t → t = 7) ∧
    ((Instr.start 0x5A).wf 32 = true ∧ (Instr.start 0x5A).format = .internal) :=
  ⟨by decide, ⟨by decide, rfl, fun _ h => (Instr.tagSeen.inj h).symm⟩, by decide⟩
theorem witness_DecodedInstructionsAreWellFormed : 4294967295 < 2 ^ 32 := by decide
theorem witness_TagFrameFieldsSurviveEncoding :
    (framed e1Bytes).holds (tagFrameBytes 0x3000 tagT 0xFD6F 0x02 0x0DF732 0x2D) ∧ (framed e1Bytes).frameLen = 29 := by
  unfold State.holds; decide
theorem witness_EncodedFramesPassValidation :
    [(0x01 : Byte)].length + 8 < 65536 ∧ [(0x01 : Byte)].length + 8 ≤ (framed (stopFrameBytes 0x01)).params.cap ∧
    (framed (stopFrameBytes 0x01)).holds (frameBytes 0x8D [0x01]) ∧
    (framed (stopFrameBytes 0x01)).frameLen = [(0x01 : Byte)].length + 8 := by
  unfold State.holds; decide
theorem witness_StepRunsTheDecodedCommand :
    ({ idle with input := [⟨0x1A5, 7⟩] } : State).input = ⟨0x1A5, 7⟩ :: [] ∧ idle.input = [] := by decide
theorem witness_ReservedCommandIsRefused :
    ({ idle with input := [⟨0x300, 0⟩] } : State).input = ⟨0x300, 0⟩ :: [] ∧ (0x300 : BitVec 10) &&& 0x300 = 0x300 := by decide
/-- One state for each of the six paths, and a byte that takes it. -/
theorem witness_ByteTakesTheFirstPathThatHolds :
    (Inv { idle with prev := 0xA5 } ∧ ({ idle with prev := 0xA5 } : State).selectPath 0x5A = .start) ∧
    (Inv ending ∧ ending.selectPath 0x0A = .endFrame) ∧ (Inv fullArmed ∧ fullArmed.selectPath 0x0A = .endOvf) ∧
    (Inv full ∧ full.selectPath 0x22 = .accOvf) ∧ (Inv started ∧ started.selectPath 0x00 = .acc) ∧
    (Inv idle ∧ idle.selectPath 0x00 = .discard) :=
  ⟨⟨idleArmed_inv, by decide⟩, ⟨ending_inv, by decide⟩, ⟨fullArmed_inv, by decide⟩, ⟨full_inv, by decide⟩, ⟨started_inv, by decide⟩,
    ⟨idle_inv, by decide⟩⟩
/-- Both clauses, at the boundary of the interval. -/
theorem witness_CheckDrainsThenSweepsWhenDue :
    (idle.params.flushInterval : Int) ≤ (((1000 : Nat) : Int) - idle.lastFlush) % ((2 ^ idle.params.clockW : Nat) : Int) ∧
    (((999 : Nat) : Int) - idle.lastFlush) % ((2 ^ idle.params.clockW : Nat) : Int) < idle.params.flushInterval := by decide
theorem witness_AgeIsTheModularElapsedTime : 4294967295 < 2 ^ 32 := by decide
theorem witness_RepeatedCheckIsIdempotent : 0 < idle.params.flushInterval := by decide
theorem witness_FirstCheckAfterReset : 999 < 2 ^ full.params.clockW ∧ 1000 < 2 ^ full.params.clockW := by decide
theorem witness_StartBeginsAFrame :
    (ending.buf.wf ending.params.cap = true ∧ ending.asm = true) ∧
    (idle.buf.wf idle.params.cap = true ∧ ({ idle with prev := 0xA5 } : State).prev = 0xA5) := by decide
/-- Cursors at both ends of the range: 1 and `CAP-1`. -/
theorem witness_EndCompletesAndValidatesTheFrame :
    (ending.buf.wf ending.params.cap = true ∧ 1 ≤ ending.cursor ∧ ending.cursor ≤ ending.params.cap - 1 ∧ ending.asm = true ∧
      ending.prev = 0x0D) ∧
    (({ ending with cursor := 1 } : State).buf.wf 32 = true ∧ 1 ≤ ({ ending with cursor := 1 } : State).cursor) ∧
    ({ ending with cursor := 31 } : State).cursor ≤ ending.params.cap - 1 := by decide
theorem witness_EndWithFullBufferClamps :
    fullArmed.asm = true ∧ fullArmed.prev = 0x0D ∧ fullArmed.cursor = fullArmed.params.cap := by decide
theorem witness_AccAppendsOneByte :
    started.buf.wf started.params.cap = true ∧ started.cursor ≤ started.params.cap - 1 ∧ started.asm = true ∧
      ¬(started.prev = 0xA5 ∧ (0x77 : Byte) = 0x5A) ∧ ¬(started.prev = 0x0D ∧ (0x77 : Byte) = 0x0A) := by decide
theorem witness_AccWithFullBufferClampsThenWrites :
    full.buf.wf full.params.cap = true ∧ full.asm = true ∧ full.params.cap ≤ full.cursor ∧
      ¬(full.prev = 0xA5 ∧ (0x22 : Byte) = 0x5A) ∧ ¬(full.prev = 0x0D ∧ (0x22 : Byte) = 0x0A) := by decide
theorem witness_DiscardChangesOnlyPrev : idle.asm = false ∧ ¬(idle.prev = 0xA5 ∧ (0x5A : Byte) = 0x5A) := by decide
theorem witness_IndexingOutsideTheBufferFaults :
    idle.cursor = 0 ∧ full.params.cap ≤ full.cursor ∧ (full.read 0 = 0xA5 ∧ full.read 1 = 0x5A) ∧ full.frameLen < 2 ∧
      (({ ending with cursor := 0 } : State).asm = true ∧ ({ ending with cursor := 0 } : State).prev = 0x0D) := by decide
theorem e1_carriedIntact : carriedIntact (tagFrameBytes 0x3000 tagT 0xFD6F 0x02 0x0DF732 0x2D) := by
  rw [encode_e1_frame]; unfold carriedIntact; decide
theorem idleWithInput_inv (cs : List Command) : Inv { idle with input := cs } :=
  ⟨idle_inv.1, idle_inv.2, idle_inv.3, idle_inv.4, idle_inv.5, idle_inv.6, idle_inv.7, idle_inv.8, idle_inv.9⟩
theorem witness_IntactFramesAreReassembled :
    Inv { idle with input := traceFrame e1Bytes 100 ++ [] } ∧ idle.asm = false ∧ carriedIntact e1Bytes ∧
      e1Bytes.length ≤ idle.params.cap ∧ 100 < 2 ^ idle.params.clockW :=
  ⟨idleWithInput_inv _, rfl, encode_e1_frame ▸ e1_carriedIntact, by decide, by decide⟩
theorem witness_TagFrameIsObservedAndQueued :
    Inv { idle with input := traceFrame (tagFrameBytes 0x3000 tagT 0xFD6F 0x02 0x0DF732 0x2D) 100 ++ [] } ∧ idle.asm = false ∧
      100 < 2 ^ idle.params.clockW ∧ carriedIntact (tagFrameBytes 0x3000 tagT 0xFD6F 0x02 0x0DF732 0x2D) :=
  ⟨idleWithInput_inv _, rfl, by decide, e1_carriedIntact⟩
theorem witness_ValidateReportsTheFirstFailingCheck :
    2 ≤ (framed e1Bytes).frameLen ∧ (framed e1Bytes).frameLen ≤ (framed e1Bytes).params.cap := by decide
theorem witness_StartAndEndChecksNeverFail :
    Inv { ending with input := [] } ∧ step { ending with input := [] } = .next { ending with input := [] } := ⟨ending_inv, rfl⟩
theorem witness_DataLengthFiveAlwaysPasses :
    let s := framed [0xA5, 0x5A, 0x00, 0x05, 0x0D, 0x0A]
    6 ≤ s.frameLen ∧ s.frameLen ≤ s.params.cap ∧ s.read 0 = 0xA5 ∧ s.read 1 = 0x5A ∧ s.read 2 = 0x00 ∧ s.read 3 = 0x05 ∧
      s.read (s.frameLen - 2) = 0x0D ∧ s.read (s.frameLen - 1) = 0x0A := by decide
/-- At the last index the statement covers, the checksum byte itself. -/
theorem witness_OneChangedByteIsRejected :
    let s := framed e1Bytes
    let s' : State := { s with buf := s.buf.set 26 0x00 }
    s.verdict = none ∧ s.frameLen ≤ s.params.cap ∧ s' = { s with buf := s'.buf } ∧ 4 ≤ 26 ∧ 26 + 2 < s.frameLen ∧
      26 + 3 ≤ s.dataLength ∧ s'.read 26 ≠ s.read 26 ∧ ∀ a, a ≠ 26 → s'.read a = s.read a :=
  ⟨by decide, by decide, rfl, by decide, by decide, by decide, by decide, fun _ h => Memory.get_set_ne _ _ h⟩
theorem witness_ExampleFrameBitFlipsAreRejected :
    (framed (e1Bytes.set 10 0x10)).frameLen = 29 ∧ ∀ a, a < 29 → (framed (e1Bytes.set 10 0x10)).read a =
      (tagFrameBytes 0x3000 tagT 0xFD6F 0x02 0x0DF732 0x2D).getD a 0 ^^^ (if a = 10 then BitVec.ofNat 8 (2 ^ 0) else 0) := by decide
/-- Both ends of the range of codes whose top bit is clear. -/
theorem witness_RssiCornerCases :
    ((0x0001 : BitVec 16).toNat < 2 ^ 15 ∧ (0x0001 : BitVec 16) ≠ 0) ∧ ((0x7FFF : BitVec 16).toNat < 2 ^ 15 ∧ (0x7FFF : BitVec 16) ≠ 0) := by
  decide
theorem witness_DecodersIgnoreTheFrameLength :
    (∃ t, exec (.tagSeen 5) (framed e1Bytes) = .next t) ∧ ∃ t, exec .stopAck (framed e1Bytes) = .next t := ⟨⟨_, rfl⟩, _, rfl⟩
theorem witness_ObserveRefreshesAKnownKey :
    ({ idle with reg := [⟨tagT, 1, 5⟩, ⟨tagT, 2, 6⟩] } : State).reg = [⟨tagT, 1, 5⟩] ++ ⟨tagT, 2, 6⟩ :: [] ∧
      ∀ x ∈ [(⟨tagT, 1, 5⟩ : RegEntry)], ¬(x.tag = tagT ∧ x.ant = 2) := by decide
theorem witness_ObserveInsertsANewKey :
    let s : State := { idle with reg := [⟨tagT, 1, 5⟩] }
    (∀ x ∈ s.reg, ¬(x.tag = tagT ∧ x.ant = 2)) ∧ s.reg.length < s.params.regCap := by decide
theorem witness_ObserveRejectsANewKeyWhenFull :
    let s : State := { idle with reg := [⟨tagT, 1, 5⟩, ⟨tagT, 2, 6⟩] }
    (∀ x ∈ s.reg, ¬(x.tag = tagB ∧ x.ant = 1)) ∧ s.params.regCap ≤ s.reg.length := by decide
theorem witness_RegistryKeysLeaveOnlyBySweepOrReset :
    (∃ t, exec (.byte 0x0A 5) ending = .next t) ∧ Instr.byte 0x0A 5 ≠ .reset ∧ (∀ now, Instr.byte 0x0A 5 ≠ .check now) ∧
      ∀ now, Instr.byte 0x0A 5 ≠ .sweep now := ⟨⟨_, rfl⟩, by simp, by simp, by simp⟩
theorem witness_EnqueueReplacesAQueuedKey :
    ({ idle with q := [rep tagT 1, rep tagB 2] } : State).q = [rep tagT 1] ++ rep tagB 2 :: [] ∧
      (∀ x ∈ [rep tagT 1], ¬(x.tag = (rep tagB 7).tag ∧ x.ant = (rep tagB 7).ant)) ∧ (rep tagB 2).tag = (rep tagB 7).tag ∧
      (rep tagB 2).ant = (rep tagB 7).ant := by decide
theorem witness_EnqueueAppendsOrDropsANewKey :
    let s : State := { idle with q := [rep tagT 1] }
    let s' : State := { idle with q := [rep tagT 1, { rep tagT 2 with ant := 9 }] }
    ((∀ x ∈ s.q, ¬(x.tag = (rep tagB 7).tag ∧ x.ant = (rep tagB 7).ant)) ∧ s.q.length < s.params.qCap) ∧
      ((∀ x ∈ s'.q, ¬(x.tag = (rep tagB 7).tag ∧ x.ant = (rep tagB 7).ant)) ∧ s'.params.qCap ≤ s'.q.length) := by decide
theorem witness_DrainPublishesTheLatestReportOfEachKey : idle.q = [] := rfl
theorem witness_OneReportTooManyIsDropped :
    let rs := [rep tagT 1, rep tagB 2, { rep tagT 3 with ant := 9 }]
    idle.q = [] ∧ (rs.map keyOf).Nodup ∧ rs.length = idle.params.qCap + 1 := by decide
theorem witness_UnpublishedFieldsNeverReachTheOutput :
    let s : State := { idle with q := [rep tagT 1] }
    let s' : State := { idle with q := [{ rep tagT 1 with phase := 9 }] }
    PublishesAlike s s' ∧ s ≠ s' ∧ step s = .next s := ⟨⟨rfl, by decide⟩, by decide, rfl⟩
theorem witness_StepKeepsTheInvariant :
    Inv { idle with input := [⟨0x1A5, 7⟩] } ∧ ∃ t, step { idle with input := [⟨0x1A5, 7⟩] } = .next t :=
  ⟨idleWithInput_inv _, _, rfl⟩
theorem witness_AdmittedCommandsAlwaysComplete : Inv { idle with input := [⟨0x1A5, 7⟩] } ∧ admitted { idle with input := [⟨0x1A5, 7⟩] } :=
  ⟨idleWithInput_inv _, by intro c hc; simp at hc; subst hc; decide⟩
theorem witness_ParametersAndEmittedEventsAreFixed : ∃ t, exec (.byte 0x22 0) full = .next t := ⟨_, rfl⟩
/-- A completed frame, a firing CHECK and a RESET. -/
theorem witness_EventsOfOneCommandComeInOrder :
    (∃ t, exec (.byte 0x0A 5) ending = .next t ∧ t.asm = false ∧ ending.asm = true) ∧ (∃ t, exec (.check 1000) idle = .next t) ∧
      ∃ t, exec .reset full = .next t := ⟨⟨_, rfl, by decide, by decide⟩, ⟨_, rfl⟩, _, rfl⟩
theorem witness_StopAckValidIsClearedOnlyByReset :
    (∃ t, exec (.check 1000) { idle with stopAckValid := true } = .next t) ∧ Instr.check 1000 ≠ .reset ∧
      ({ idle with stopAckValid := true } : State).stopAckValid = true := ⟨⟨_, rfl⟩, by simp, rfl⟩

end Sys2Proof.Tests
end

section
/-! PROOFS. The frame buffer's reads and bounds (00_scope R9): `MemRead` as a sum, and where an access outside `0 .. CAP-1` faults. -/

namespace Sys2Proof.Machine

/-! ### MemRead -/

/-- The byte at `i` weighs `256^n`; each byte after it weighs what it weighs in the `n` bytes from `i + 1`. -/
theorem State.memRead_eq_sum (s : State) (i n : Nat) :
    s.memRead i n = ((List.range n).map fun k => (s.read (i + k)).toNat * 256 ^ (n - 1 - k)).sum := by
  induction n generalizing i with
  | zero => rfl
  | succ n ih =>
    have tail_term (k : Nat) : (s.read (i + 1 + k)).toNat * 256 ^ (n - 1 - k) =
        (s.read (i + (k + 1))).toNat * 256 ^ (n + 1 - 1 - (k + 1)) := by
      rw [show i + 1 + k = i + (k + 1) by omega, show n - 1 - k = n + 1 - 1 - (k + 1) by omega]
    simp only [State.memRead, ih, tail_term, List.range_succ_eq_map, List.map_cons, List.map_map, List.sum_cons]
    rfl

/-- Settles O7. -/
theorem memReadIsBigEndian : Obligations.MemReadIsBigEndian := State.memRead_eq_sum

/-! ### The meanings that can fault -/

theorem exec_byte (b : Byte) (now : Nat) (s : State) : exec (.byte b now) s = execByte b now s := rfl
theorem exec_endFrame (now : Nat) (s : State) : exec (.endFrame now) s = execEndFrame now s := rfl
theorem exec_acc (b : Byte) (s : State) : exec (.acc b) s = execAcc b s := rfl
theorem exec_validate (now : Nat) (s : State) : exec (.validate now) s = execValidate now s := rfl

/-! ### Where an access falls outside the buffer -/

theorem State.endInBuffer_eq_false (s : State) : s.endInBuffer = false ↔ s.cursor = 0 ∨ s.params.cap ≤ s.cursor := by
  rw [State.endInBuffer, Bool.and_eq_false_iff, decide_eq_false_iff_not, decide_eq_false_iff_not]
  omega

theorem State.accInBuffer_eq_false (s : State) : s.accInBuffer = false ↔ s.params.cap ≤ s.cursor := by
  rw [State.accInBuffer, decide_eq_false_iff_not, Nat.not_lt]

theorem State.frameInBuffer_eq_false (s : State) :
    s.frameInBuffer = false ↔ s.startOk = true ∧ (s.frameLen < 2 ∨ s.params.cap < s.frameLen) := by
  simp [State.frameInBuffer, imp_iff_not_or]

/-- Of the six paths only END can leave the buffer, at cursor 0: ACC, the other path with a bound, is selected only below `CAP`
(41_frame_assembler R127). -/
theorem State.selectedPath_outside_iff (b : Byte) (s : State) :
    s.pathInBuffer (s.selectPath b) = false ↔
      s.asm = true ∧ s.prev = Config.e0 ∧ b = Config.e1 ∧ s.cursor = 0 := by
  rcases s.selectPath_cases b with ⟨hpath, hprev, hb⟩ | ⟨-, ⟨hpath, hasm, hprev, hb, hcur⟩ | ⟨hpath, -, -, -, hcur⟩ |
    ⟨hpath, -, hpair, -⟩ | ⟨hpath, -, hpair, hcur⟩ | ⟨hpath, hasm⟩⟩ <;> rw [hpath]
  · -- START
    have markers_differ : Config.s0 ≠ Config.e0 := by decide
    simp [State.pathInBuffer, hprev, markers_differ]
  · -- END
    rw [State.pathInBuffer, s.endInBuffer_eq_false]
    simp [hasm, hprev, hb, hcur]
  · -- END_OVF
    have hcap := s.params.cap_min
    have cursor_ne_zero : s.cursor ≠ 0 := by omega
    simp [State.pathInBuffer, cursor_ne_zero]
  · -- ACC_OVF
    simp only [State.pathInBuffer, Bool.true_eq_false, false_iff]
    exact fun ⟨_, hprev, hb, _⟩ => hpair ⟨hprev, hb⟩
  · -- ACC
    rw [State.pathInBuffer, s.accInBuffer_eq_false]
    exact ⟨fun h => absurd hcur (Nat.not_lt.2 h), fun ⟨_, hprev, hb, _⟩ => absurd ⟨hprev, hb⟩ hpair⟩
  · -- DISCARD
    simp [State.pathInBuffer, hasm]

/-- Settles O23: each of the four faults exactly where its bounds check on the buffer fails. -/
theorem indexingOutsideTheBufferFaults : Obligations.IndexingOutsideTheBufferFaults := by
  intro s now b
  refine ⟨?endFrame, ?acc, ?validate, ?byte⟩
  case endFrame => rw [exec_endFrame, execEndFrame, onBuffer_eq_fault, s.endInBuffer_eq_false]
  case acc => rw [exec_acc, execAcc, onBuffer_eq_fault, s.accInBuffer_eq_false]
  case validate => rw [exec_validate, execValidate, onBuffer_eq_fault, s.frameInBuffer_eq_false, s.startOk_iff]
  case byte =>
    rw [exec_byte, execByte, onBuffer_eq_fault, s.selectedPath_outside_iff]
    rfl

end Sys2Proof.Machine
end

section
/-! PROOFS. The invariants (10_state R36): they hold of the reset table, and every step keeps them. The caches' operations keep them
one by one; the assembler's paths keep them only together with the `prev <- b` that ends a BYTE, because `end_armed` relates `prev` to
the byte just written. -/

namespace Sys2Proof.Machine

/-! ### The registry -/

/-- What holds of every entry of a cache still does after one entry gives way to another of which it holds. -/
theorem forall_mem_replace {α : Type} {P : α → Prop} {pre post : List α} {e a : α} (h : ∀ x ∈ pre ++ e :: post, P x) (ha : P a) :
    ∀ x ∈ pre ++ a :: post, P x := by
  obtain ⟨hpre, hrest⟩ := List.forall_mem_append.1 h
  exact List.forall_mem_append.2 ⟨hpre, List.forall_mem_cons.2 ⟨ha, (List.forall_mem_cons.1 hrest).2⟩⟩

section Registry

variable {p : Params} {reg pre post : List RegEntry} {e : RegEntry} {tag : Tag} {ant : Byte} {now : Nat}

theorem RegInv.nil (p : Params) : RegInv p [] := ⟨Nat.zero_le _, List.nodup_nil, List.forall_mem_nil _⟩

theorem RegInv.refresh (h : RegInv p (pre ++ e :: post)) (hnow : now < 2 ^ p.clockW) :
    RegInv p (pre ++ { e with lastSeen := now } :: post) where
  length_le := by simpa using h.length_le
  keys_nodup := by simpa [RegEntry.key] using h.keys_nodup
  lastSeen_lt := forall_mem_replace h.lastSeen_lt hnow

theorem RegInv.insert (h : RegInv p reg) (hnew : ∀ x ∈ reg, x.key ≠ (tag, ant)) (hroom : reg.length < p.regCap)
    (hnow : now < 2 ^ p.clockW) : RegInv p (reg ++ [⟨tag, ant, now⟩]) where
  length_le := by simpa using hroom
  keys_nodup := by
    rw [List.map_append, List.nodup_append]
    refine ⟨h.keys_nodup, List.nodup_singleton _, ?_⟩
    simpa [RegEntry.key] using hnew
  lastSeen_lt := List.forall_mem_append.2 ⟨h.lastSeen_lt, List.forall_mem_singleton.2 hnow⟩

theorem RegInv.filter (h : RegInv p reg) (keep : RegEntry → Bool) : RegInv p (reg.filter keep) where
  length_le := (List.length_filter_le keep reg).trans h.length_le
  keys_nodup := h.keys_nodup.sublist (List.filter_sublist.map _)
  lastSeen_lt e he := h.lastSeen_lt e (List.mem_of_mem_filter he)

end Registry

/-! ### The queue -/

section Queue

variable {p : Params} {q pre post : List Report} {e r : Report}

theorem QueueInv.nil (p : Params) : QueueInv p [] :=
  ⟨Nat.zero_le _, List.nodup_nil, List.forall_mem_nil _, List.forall_mem_nil _⟩

theorem QueueInv.replace (h : QueueInv p (pre ++ e :: post)) (hkey : keyOf e = keyOf r) (hop : r.opcode = Config.opTagSeen)
    (hstr : r.strength5 = strength5 r.rssiRaw) : QueueInv p (pre ++ r :: post) where
  length_le := by simpa using h.length_le
  keys_nodup := by simpa [hkey] using h.keys_nodup
  opcode_eq := forall_mem_replace h.opcode_eq hop
  strength_eq := forall_mem_replace h.strength_eq hstr

theorem QueueInv.append (h : QueueInv p q) (hnew : ∀ x ∈ q, keyOf x ≠ keyOf r) (hroom : q.length < p.qCap)
    (hop : r.opcode = Config.opTagSeen) (hstr : r.strength5 = strength5 r.rssiRaw) : QueueInv p (q ++ [r]) where
  length_le := by simpa using hroom
  keys_nodup := by
    rw [List.map_append, List.nodup_append]
    refine ⟨h.keys_nodup, List.nodup_singleton _, ?_⟩
    simpa using hnew
  opcode_eq := List.forall_mem_append.2 ⟨h.opcode_eq, List.forall_mem_singleton.2 hop⟩
  strength_eq := List.forall_mem_append.2 ⟨h.strength_eq, List.forall_mem_singleton.2 hstr⟩

end Queue

/-! ### Reset -/

/-- The reset table has the invariants, whatever the parameters and whatever the ports hold. -/
theorem Inv.resetWith (p : Params) (out : List Event) (input : List Command) : Inv (State.resetWith p out input) where
  idle_cursor _ := rfl
  busy_cursor h := nomatch h
  end_armed h := nomatch h
  start_marker := .inl ⟨rfl, rfl, rfl⟩
  frameLen_range := .inl rfl
  buf_wf := rfl
  lastFlush_lt := Nat.two_pow_pos p.clockW
  reg_inv := .nil p
  q_inv := .nil p

/-- Settles O51. -/
theorem invariantHoldsAtReset : Obligations.InvariantHoldsAtReset := Inv.resetWith Config.reference [] []

/-! ### The operations outside the assembler -/

section Operations

variable {s : State} {now : Nat}

/-- The commands still on the port are in no invariant. -/
theorem Inv.withInput (h : Inv s) (cs : List Command) : Inv { s with input := cs } := { h with }

theorem Inv.warn (h : Inv s) (code : WarnCode) : Inv (s.warn code) := { h with }

theorem Inv.observe (h : Inv s) (tag : Tag) (ant : Byte) (hnow : now < 2 ^ s.params.clockW) : Inv (s.observe tag ant now) := by
  rcases s.observe_cases tag ant now with ⟨pre, e, post, hreg, -, -, heq⟩ | ⟨hnew, hroom, heq⟩ | ⟨-, -, heq⟩ <;> rw [heq]
  · exact { h with reg_inv := (hreg ▸ h.reg_inv).refresh hnow }
  · exact { h with reg_inv := h.reg_inv.insert hnew hroom hnow }
  · exact h.warn .regFull

theorem Inv.enqueue (h : Inv s) {r : Report} (hop : r.opcode = Config.opTagSeen) (hstr : r.strength5 = strength5 r.rssiRaw) :
    Inv (s.enqueue r) := by
  rcases s.enqueue_cases r with ⟨pre, e, post, hq, -, hkey, heq⟩ | ⟨hnew, hroom, heq⟩ | ⟨-, -, heq⟩ <;> rw [heq]
  · exact { h with q_inv := (hq ▸ h.q_inv).replace hkey hop hstr }
  · exact { h with q_inv := h.q_inv.append hnew hroom hop hstr }
  · exact h.warn .queueFull

/-- A report is queued under `OP_TAG_SEEN` because DISPATCH selects the decoder by that byte. -/
theorem Inv.dispatch (h : Inv s) (hnow : now < 2 ^ s.params.clockW) : Inv (s.dispatch now) := by
  rcases s.dispatch_cases now with ⟨hop, heq⟩ | ⟨-, heq⟩ | ⟨-, -, heq⟩ <;> rw [heq]
  · exact (h.observe s.report.tag s.report.ant hnow).enqueue hop rfl
  · exact { h with }
  · exact h

theorem Inv.validate (h : Inv s) (hnow : now < 2 ^ s.params.clockW) : Inv (s.validate now) := by
  rcases s.validate_cases now with ⟨code, -, heq⟩ | ⟨-, heq⟩ <;> rw [heq]
  · exact h.warn code
  · exact h.dispatch hnow

theorem Inv.drain (h : Inv s) : Inv s.drain := { h with q_inv := .nil _ }

theorem Inv.sweep (h : Inv s) (now : Nat) : Inv (s.sweep now) := { h with reg_inv := h.reg_inv.filter _ }

theorem Inv.check (h : Inv s) (hnow : now < 2 ^ s.params.clockW) : Inv (s.check now) := by
  unfold State.check
  split
  · exact { h.drain.sweep now with lastFlush_lt := hnow }
  · exact h

end Operations

/-! ### The assembler's paths -/

section Assembler

variable {s : State} {b : Byte}

/-- Once assembly is under way the buffer begins with the start marker. -/
theorem Inv.marker_of_busy (h : Inv s) (ha : s.asm = true) : s.read 0 = Config.s0 ∧ s.read 1 = Config.s1 :=
  h.start_marker.resolve_left fun ⟨hidle, _⟩ => Bool.false_ne_true (hidle.symm.trans ha)

/-- A write above index 1 keeps the start marker. -/
theorem State.marker_write (i : Nat) (v : Byte) (hi : 2 ≤ i) (h : s.read 0 = Config.s0 ∧ s.read 1 = Config.s1) :
    (s.write i v).read 0 = Config.s0 ∧ (s.write i v).read 1 = Config.s1 := by
  rwa [State.read_write_ne (by omega), State.read_write_ne (by omega)]

/-- While no frame is in progress the previous byte is in no invariant. -/
theorem Inv.withPrev_of_idle (h : Inv s) (ha : s.asm = false) (b : Byte) : Inv { s with prev := b } :=
  { h with end_armed := fun hbusy => absurd (ha.symm.trans hbusy) Bool.false_ne_true }

/-- After the second byte of either marker no `E0` stands below the cursor to arm END. -/
theorem s1_ne_e0 : Config.s1 ≠ Config.e0 := by decide
theorem e1_ne_e0 : Config.e1 ≠ Config.e0 := by decide

/-- START as one record update. -/
theorem State.start_eq (s : State) :
    s.start = { s with buf := (s.buf.set 0 Config.s0).set 1 Config.s1, cursor := 2, asm := true,
                       out := s.out ++ (if s.asm then [.warn .asmResync] else []) } := by
  cases h : s.asm <;> simp [State.start, h, State.write, State.warn, State.emit, State.emitAll]

theorem Inv.start (h : Inv s) : Inv { s.start with prev := Config.s1 } := by
  have two_le_cap : 2 ≤ s.params.cap := le_trans (by decide) s.params.cap_min
  have wf0 : (s.buf.set 0 Config.s0).wf s.params.cap = true := Memory.set_wf h.buf_wf (by omega)
  have wf1 : ((s.buf.set 0 Config.s0).set 1 Config.s1).wf s.params.cap = true := Memory.set_wf wf0 (by omega)
  have read0 : ((s.buf.set 0 Config.s0).set 1 Config.s1).get 0 = Config.s0 :=
    (Memory.get_set_ne _ _ Nat.zero_ne_one).trans (Memory.get_set_self _ h.buf_wf)
  have read1 : ((s.buf.set 0 Config.s0).set 1 Config.s1).get 1 = Config.s1 := Memory.get_set_self _ wf0
  rw [s.start_eq]
  exact { h with
    idle_cursor := fun hidle => nomatch hidle
    busy_cursor := fun _ => ⟨Nat.le_refl 2, two_le_cap⟩
    end_armed := fun _ hprev => absurd hprev s1_ne_e0
    start_marker := .inr ⟨read0, read1⟩
    buf_wf := wf1 }

/-- Both bytes of the end marker go above the start marker, since the armed `E0` stands at index 2 or above (R123). -/
theorem Inv.completeFrame (h : Inv s) (ha : s.asm = true) (hprev : s.prev = Config.e0) (hroom : s.cursor < s.params.cap) :
    Inv s.completeFrame := by
  obtain ⟨hcur, -⟩ := h.end_armed ha hprev
  have marker := State.marker_write s.cursor Config.e1 (by omega)
    (State.marker_write (s.cursor - 1) Config.e0 (by omega) (h.marker_of_busy ha))
  have wf : (s.buf.set (s.cursor - 1) Config.e0).wf s.params.cap = true := Memory.set_wf h.buf_wf (by omega)
  exact { h with
    idle_cursor := fun _ => rfl
    busy_cursor := fun hbusy => nomatch hbusy
    end_armed := fun hbusy => nomatch hbusy
    start_marker := .inr marker
    frameLen_range := .inr ⟨by rw [State.completeFrame_frameLen]; omega, hroom⟩
    buf_wf := Memory.set_wf wf hroom }

theorem Inv.endFrame (h : Inv s) (ha : s.asm = true) (hprev : s.prev = Config.e0) (hroom : s.cursor < s.params.cap) {now : Nat}
    (hnow : now < 2 ^ s.params.clockW) : Inv { s.endFrame now with prev := b } := by
  have hidle : (s.endFrame now).asm = false := by
    obtain ⟨reg', q', v, ok, evs, heq, -⟩ := s.completeFrame.validate_frame now
    rw [State.endFrame, heq, State.completeFrame_asm]
  exact ((h.completeFrame ha hprev hroom).validate hnow).withPrev_of_idle hidle b

theorem Inv.endOvf (h : Inv s) (ha : s.asm = true) : Inv { s.endOvf with prev := Config.e1 } := by
  have hcap := s.params.cap_min
  exact { h with
    idle_cursor := fun hidle => absurd (hidle.symm.trans ha) Bool.false_ne_true
    busy_cursor := fun _ => by simp only [State.endOvf_cursor, State.endOvf_params]; omega
    end_armed := fun _ hprev => absurd hprev e1_ne_e0 }

/-- A byte written while assembling stands just below the new cursor, so that an `E0` arms END there. -/
theorem Inv.write_advance (h : Inv s) (ha : s.asm = true) {i : Nat} (b : Byte) (out : List Event) (hlo : 2 ≤ i)
    (hhi : i < s.params.cap) : Inv { s.write i b with cursor := i + 1, prev := b, out := out } where
  idle_cursor hidle := absurd (hidle.symm.trans ha) Bool.false_ne_true
  busy_cursor _ := ⟨Nat.le_succ_of_le hlo, hhi⟩
  end_armed _ hb := ⟨Nat.succ_le_succ hlo, (Memory.get_set_self b h.buf_wf).trans hb⟩
  start_marker := .inr (State.marker_write i b hlo (h.marker_of_busy ha))
  frameLen_range := h.frameLen_range
  buf_wf := Memory.set_wf h.buf_wf hhi
  lastFlush_lt := h.lastFlush_lt
  reg_inv := h.reg_inv
  q_inv := h.q_inv

theorem Inv.acc (h : Inv s) (ha : s.asm = true) (hroom : s.cursor < s.params.cap) : Inv { s.acc b with prev := b } := by
  obtain ⟨hcur, -⟩ := h.busy_cursor ha
  exact h.write_advance ha b s.out hcur hroom

theorem Inv.accOvf (h : Inv s) (ha : s.asm = true) : Inv { s.accOvf b with prev := b } := by
  have hcap := s.params.cap_min
  have hstep : s.params.cap - 2 = s.params.cap - 3 + 1 := by omega
  rw [State.accOvf, hstep]
  exact h.write_advance ha b _ (by omega) (by omega)

/-- The path a byte selects, followed by `prev <- b`, keeps the invariants (41_frame_assembler R127, 40_host_step R102). -/
theorem Inv.byte (h : Inv s) {now : Nat} (hnow : now < 2 ^ s.params.clockW) : Inv (s.byte b now) := by
  unfold State.byte
  rcases s.selectPath_cases b with ⟨hpath, -, rfl⟩ | ⟨-, ⟨hpath, ha, hprev, -, hroom⟩ | ⟨hpath, ha, -, rfl, -⟩ |
    ⟨hpath, ha, -, -⟩ | ⟨hpath, ha, -, hroom⟩ | ⟨hpath, ha⟩⟩ <;> rw [hpath]
  · exact h.start
  · exact h.endFrame ha hprev hroom hnow
  · exact h.endOvf ha
  · exact h.accOvf ha
  · exact h.acc ha hroom
  · exact h.withPrev_of_idle ha b

end Assembler

/-! ### The step -/

/-- Settles O52, by the command the step takes. -/
theorem stepKeepsTheInvariant : Obligations.StepKeepsTheInvariant := by
  intro s t h hstep
  rcases step_cases s with ⟨-, heq⟩ | ⟨c, rest, -, heq⟩ <;> rw [heq] at hstep
  · cases hstep
    exact h
  · have taken := h.withInput rest
    have hnow := Command.clock_lt s.params.clockW c
    rcases decodeCommand_cases s.params.clockW c with ⟨-, hdec⟩ | ⟨-, hdec⟩ | ⟨-, hdec⟩ | ⟨-, hdec⟩ <;> rw [hdec] at hstep
    · cases hstep
      exact .resetWith _ _ _
    · obtain ⟨-, rfl⟩ := onBuffer_eq_next.1 hstep
      exact taken.byte hnow
    · cases hstep
      exact taken.check hnow
    · cases hstep

end Sys2Proof.Machine
end

section
/-! PROOFS. What the instructions leave alone (10_state R27, R34; 00_scope R10): the parameters, the port, the events already emitted
and, RESET apart, a set `stopAckValid`; and the values RESET and STOP_ACK give (10_state R37, R38). -/

namespace Sys2Proof.Machine

/-! ### An instruction's effect apart from its refusal and faults -/

/-- The state an instruction leaves where it answers one. RESERVED_OP3 never does (30_encoding R76). -/
def effect : Instr → State → State
  | .reset, s => s.resetCommand
  | .byte b now, s => s.byte b now
  | .check now, s => s.check now
  | .reservedOp3, s => s
  | .tagSeen now, s => s.decTagSeen now
  | .stopAck, s => s.decStopAck
  | .other _, s => s.decOther
  | .start _, s => s.start
  | .endFrame now, s => s.endFrame now
  | .endOvf, s => s.endOvf
  | .accOvf b, s => s.accOvf b
  | .acc b, s => s.acc b
  | .discard _, s => s.discard
  | .validate now, s => s.validate now
  | .dispatch now, s => s.dispatch now
  | .observe tag ant now, s => s.observe tag ant now
  | .enqueue r, s => s.enqueue r
  | .drain, s => s.drain
  | .sweep now, s => s.sweep now

/-- Every next state is the instruction's effect: four instructions answer it behind a bounds check, one refuses, the others answer
it outright. -/
theorem eq_effect_of_exec {i : Instr} {s t : State} (h : exec i s = .next t) : t = effect i s := by
  cases i with
  | byte | endFrame | acc | validate => exact (onBuffer_eq_next.1 h).2.symm
  | reservedOp3 => cases h
  | reset | check | tagSeen | stopAck | other | start | endOvf | accOvf | discard | dispatch | observe | enqueue | drain | sweep =>
    exact (Host.Outcome.next.inj h).symm

/-! ### What every instruction but RESET keeps -/

/-- The parameters and the port are the same, the output has grown at its end or not at all, and a set `stopAckValid` is set. -/
structure Keeps (s t : State) : Prop where
  params_eq : t.params = s.params
  input_eq : t.input = s.input
  out_prefix : s.out <+: t.out
  stopAckValid_set : s.stopAckValid = true → t.stopAckValid = true

theorem Keeps.refl (s : State) : Keeps s s := ⟨rfl, rfl, List.prefix_rfl, id⟩

theorem Keeps.trans {s t u : State} (h : Keeps s t) (h' : Keeps t u) : Keeps s u where
  params_eq := h'.params_eq.trans h.params_eq
  input_eq := h'.input_eq.trans h.input_eq
  out_prefix := h.out_prefix.trans h'.out_prefix
  stopAckValid_set hs := h'.stopAckValid_set (h.stopAckValid_set hs)

section Operations

variable (s : State) (b : Byte) (now : Nat)

theorem State.warn_keeps (code : WarnCode) : Keeps s (s.warn code) := ⟨rfl, rfl, List.prefix_append _ _, id⟩

theorem State.observe_keeps (tag : Tag) (ant : Byte) : Keeps s (s.observe tag ant now) := by
  obtain ⟨reg', evs, heq, -⟩ := s.observe_frame tag ant now
  rw [heq]
  exact ⟨rfl, rfl, List.prefix_append _ _, id⟩

theorem State.enqueue_keeps (r : Report) : Keeps s (s.enqueue r) := by
  obtain ⟨q', evs, heq, -⟩ := s.enqueue_frame r
  rw [heq]
  exact ⟨rfl, rfl, List.prefix_append _ _, id⟩

theorem State.decTagSeen_keeps : Keeps s (s.decTagSeen now) := (s.observe_keeps now _ _).trans (State.enqueue_keeps _ _)

theorem State.decStopAck_keeps : Keeps s s.decStopAck := ⟨rfl, rfl, List.prefix_rfl, fun _ => rfl⟩

theorem State.dispatch_keeps : Keeps s (s.dispatch now) := by
  rcases s.dispatch_cases now with ⟨-, heq⟩ | ⟨-, heq⟩ | ⟨-, -, heq⟩ <;> rw [heq]
  · exact s.decTagSeen_keeps now
  · exact s.decStopAck_keeps
  · exact .refl s

theorem State.validate_keeps : Keeps s (s.validate now) := by
  rcases s.validate_cases now with ⟨code, -, heq⟩ | ⟨-, heq⟩ <;> rw [heq]
  · exact s.warn_keeps code
  · exact s.dispatch_keeps now

theorem State.start_keeps : Keeps s s.start where
  params_eq := s.start_params
  input_eq := s.start_input
  out_prefix := s.start_out ▸ List.prefix_append _ _
  stopAckValid_set := s.start_stopAckValid.trans

theorem State.completeFrame_keeps : Keeps s s.completeFrame := ⟨rfl, rfl, List.prefix_rfl, id⟩

theorem State.endFrame_keeps : Keeps s (s.endFrame now) := s.completeFrame_keeps.trans (s.completeFrame.validate_keeps now)

theorem State.endOvf_keeps : Keeps s s.endOvf := ⟨rfl, rfl, List.prefix_append _ _, id⟩

theorem State.acc_keeps : Keeps s (s.acc b) := ⟨rfl, rfl, List.prefix_rfl, id⟩

theorem State.accOvf_keeps : Keeps s (s.accOvf b) := ⟨rfl, rfl, List.prefix_append _ _, id⟩

theorem State.runPath_keeps (path : AssemblerPath) : Keeps s (s.runPath path b now) := by
  cases path with
  | start => exact s.start_keeps
  | endFrame => exact s.endFrame_keeps now
  | endOvf => exact s.endOvf_keeps
  | accOvf => exact s.accOvf_keeps b
  | acc => exact s.acc_keeps b
  | discard => exact .refl s

theorem State.byte_keeps : Keeps s (s.byte b now) :=
  (s.runPath_keeps b now (s.selectPath b)).trans ⟨rfl, rfl, List.prefix_rfl, id⟩

theorem State.drain_keeps : Keeps s s.drain := ⟨rfl, rfl, List.prefix_append _ _, id⟩

theorem State.sweep_keeps : Keeps s (s.sweep now) := ⟨rfl, rfl, List.prefix_append _ _, id⟩

theorem State.check_keeps : Keeps s (s.check now) := by
  unfold State.check
  split
  · exact (s.drain_keeps.trans (s.drain.sweep_keeps now)).trans ⟨rfl, rfl, List.prefix_rfl, id⟩
  · exact .refl s

end Operations

theorem effect_keeps {i : Instr} (s : State) (h : i ≠ .reset) : Keeps s (effect i s) := by
  cases i with
  | reset => exact absurd rfl h
  | byte b now => exact s.byte_keeps b now
  | check now => exact s.check_keeps now
  | tagSeen now => exact s.decTagSeen_keeps now
  | stopAck => exact s.decStopAck_keeps
  | start => exact s.start_keeps
  | endFrame now => exact s.endFrame_keeps now
  | endOvf => exact s.endOvf_keeps
  | accOvf b => exact s.accOvf_keeps b
  | acc b => exact s.acc_keeps b
  | validate now => exact s.validate_keeps now
  | dispatch now => exact s.dispatch_keeps now
  | observe tag ant now => exact s.observe_keeps now tag ant
  | enqueue r => exact s.enqueue_keeps r
  | drain => exact s.drain_keeps
  | sweep now => exact s.sweep_keeps now
  | reservedOp3 | other | discard => exact .refl s

/-- Settles O54: RESET clears the state elements, but neither the parameters nor the two ports are among them. -/
theorem parametersAndEmittedEventsAreFixed : Obligations.ParametersAndEmittedEventsAreFixed := by
  intro i s t h
  obtain rfl := eq_effect_of_exec h
  by_cases hi : i = .reset
  · subst hi
    exact ⟨s.resetCommand_params, s.resetCommand_input, s.resetCommand_out ▸ List.prefix_rfl⟩
  · have kept := effect_keeps s hi
    exact ⟨kept.params_eq, kept.input_eq, kept.out_prefix⟩

/-- Settles O56. -/
theorem stopAckValidIsClearedOnlyByReset : Obligations.StopAckValidIsClearedOnlyByReset := by
  intro i s t h hi
  obtain rfl := eq_effect_of_exec h
  exact (effect_keeps s hi).stopAckValid_set

/-! ### RESET and the level outputs -/

/-- The reset buffer reads `0x00` at every index (10_state R37). -/
theorem State.read_resetWith (p : Params) (out : List Event) (input : List Command) (i : Nat) :
    (State.resetWith p out input).read i = 0x00 := Memory.get_nil i

/-- Settles O10: RESET and power-on are the one reset table, over the state's own ports and over empty ones. -/
theorem resetGivesTheResetTable : Obligations.ResetGivesTheResetTable :=
  ⟨fun s => ⟨s.resetCommand, rfl, rfl, rfl, rfl, State.read_resetWith s.params s.out s.input, rfl, rfl, rfl, rfl, rfl, rfl,
      s.resetCommand_out⟩,
    rfl, rfl, rfl, State.read_resetWith Config.reference [] [], rfl, rfl, rfl, rfl, rfl, rfl⟩

/-- Settles O57. -/
theorem statusOutputsFollowTheState : Obligations.StatusOutputsFollowTheState :=
  ⟨fun _ => rfl, fun s => ⟨s.decStopAck, rfl, rfl⟩⟩

end Sys2Proof.Machine
end

section
/-! PROOFS. Keys (10_state R32): the lowercase hex rendering of a tag, two digits a byte, loses nothing. -/

namespace Sys2Proof.Machine

/-- The sixteen hexadecimal digits are distinct. -/
theorem hexDigit_inj : ∀ m < 16, ∀ n < 16, hexDigit m = hexDigit n → m = n := by decide

/-- A byte is read back from its two digits as `16 * high + low`. -/
theorem hexByte_injective : Function.Injective hexByte := by
  intro a b h
  obtain ⟨hhi, hlo⟩ : hexDigit (a.toNat / 16) = hexDigit (b.toNat / 16) ∧ hexDigit (a.toNat % 16) = hexDigit (b.toNat % 16) := by
    simpa [hexByte] using h
  have high := hexDigit_inj _ (by omega) _ (by omega) hhi
  have low := hexDigit_inj _ (by omega) _ (by omega) hlo
  exact BitVec.eq_of_toNat_eq (by omega)

theorem renderHex_cons (b : Byte) (bs : List Byte) : renderHex (b :: bs) = hexByte b ++ renderHex bs := List.flatMap_cons

theorem renderHex_length (bs : List Byte) : (renderHex bs).length = 2 * bs.length := by
  induction bs with
  | nil => rfl
  | cons b bs ih =>
    rw [renderHex_cons, List.length_append, ih, List.length_cons]
    simp only [hexByte, List.length_cons, List.length_nil]
    omega

/-- Every byte takes the same number of digits, so equal renderings are equal byte by byte. -/
theorem renderHex_injective : Function.Injective renderHex := by
  intro as
  induction as with
  | nil =>
    intro bs h
    have hlen := congrArg List.length h
    rw [renderHex_length, renderHex_length, List.length_nil] at hlen
    exact (List.length_eq_zero_iff.1 (by omega)).symm
  | cons a as ih =>
    intro bs h
    cases bs with
    | nil => simp [renderHex, hexByte] at h
    | cons b bs =>
      rw [renderHex_cons, renderHex_cons] at h
      obtain ⟨hhead, htail⟩ := List.append_inj h rfl
      rw [hexByte_injective hhead, ih htail]

/-- Tags are equal byte for byte. -/
theorem tag_eq_iff {t u : Tag} : t = u ↔ ∀ k : Fin 12, t[k] = u[k] :=
  ⟨fun h _ => h ▸ rfl, fun h => Vector.ext fun i hi => h ⟨i, hi⟩⟩

/-- Settles O39. -/
theorem keysCompareAsBytesOrAsHex : Obligations.KeysCompareAsBytesOrAsHex := by
  intro a b
  refine ⟨?keys, ?hex, ?digits⟩
  case keys => rw [keyOf_eq_iff, tag_eq_iff]
  case hex => rw [renderHex_injective.eq_iff, Vector.toList_inj]
  case digits => rw [renderHex_length, Vector.length_toList]

end Sys2Proof.Machine
end

section
/-! PROOFS. The cadence (40_host_step R103, R104; 20_memory R57): a CHECK that fires moves `lastFlush` to its own `now`, where the
elapsed time is zero and the comparator no longer fires. -/

namespace Sys2Proof.Machine

section Cadence

variable {s : State} {now : Nat}

theorem exec_check (now : Nat) (s : State) : exec (.check now) s = .next (s.check now) := rfl

theorem State.check_of_due (h : s.flushDue now = true) : s.check now = { (s.drain).sweep now with lastFlush := now } := if_pos h

theorem State.check_of_not_due (h : s.flushDue now = false) : s.check now = s := if_neg (Bool.eq_false_iff.1 h)

/-- No time has elapsed since a reading at that very reading, whatever the clock's width. -/
@[simp] theorem age_self (clockW now : Nat) : age clockW now now = 0 := by simp [age]

/-- A positive interval has not elapsed at the last flush itself. -/
theorem State.not_flushDue_at_lastFlush (hpos : 0 < s.params.flushInterval) : s.flushDue s.lastFlush = false := by
  rw [State.flushDue, age_self, decide_eq_false_iff_not, Nat.not_le]
  exact hpos

/-- A CHECK leaves no flush due at its `now`: one that fires has just made `now` the last flush, one that waits found none due. -/
theorem State.check_not_flushDue (hpos : 0 < s.params.flushInterval) : (s.check now).flushDue now = false := by
  cases hdue : s.flushDue now with
  | false => rw [State.check_of_not_due hdue, hdue]
  | true =>
    rw [State.check_of_due hdue]
    exact State.not_flushDue_at_lastFlush (s := { (s.drain).sweep now with lastFlush := now }) hpos

end Cadence

/-- Settles O15: the second CHECK finds no flush due. -/
theorem repeatedCheckIsIdempotent : Obligations.RepeatedCheckIsIdempotent := by
  intro s now hpos
  have settled : (s.check now).check now = s.check now := State.check_of_not_due (State.check_not_flushDue hpos)
  exact ⟨s.check now, exec_check now s, by rw [exec_check, settled]⟩

end Sys2Proof.Machine
end

section
/-! PROOFS. The two instruction encodings (30_encoding R75, R76, R80, R83, R84): the command word as the pair of its fields `op` and
`data`, and the opcode byte of a frame. -/

namespace Sys2Proof

open Machine

/-! ### The fields of a command word -/

section CommandWord

variable (op : BitVec 2) (data : Byte)

@[simp] theorem Command.op_commandWord (now : Nat) : (Command.mk (commandWord op data) now).op = op :=
  BitVec.extractLsb'_append_eq_left

@[simp] theorem Command.data_commandWord (now : Nat) : (Command.mk (commandWord op data) now).data = data :=
  BitVec.extractLsb'_append_eq_right

/-- A command word has no bits beside its two fields. -/
theorem Command.word_eq (c : Command) : c.word = commandWord c.op c.data := by
  have whole : c.word.extractLsb' 8 2 ++ c.word.extractLsb' 0 8 = c.word.extractLsb' 0 10 :=
    BitVec.extractLsb'_append_extractLsb'_eq_extractLsb' rfl
  exact (whole.trans BitVec.extractLsb'_eq_self).symm

/-- The mask `0x300` keeps `op` and clears `data`. -/
theorem commandWord_and_mask : commandWord op data &&& 0x300 = commandWord op 0 := by
  have mask : (0x300 : BitVec 10) = (3 : BitVec 2) ++ (0 : Byte) := rfl
  have keeps (x : BitVec 2) : x &&& 3 = x := BitVec.and_allOnes
  rw [commandWord, mask, BitVec.and_append, keeps, show data &&& 0 = 0 from BitVec.and_zero, commandWord]

/-- R83's match and mask is a test of `op`. -/
theorem Command.masked_eq_iff (c : Command) : c.word &&& 0x300 = commandWord op 0 ↔ c.op = op := by
  rw [c.word_eq, commandWord_and_mask, commandWord, commandWord, BitVec.append_left_inj]

/-- `data = cmd[7:0]` as arithmetic on the word. -/
theorem Command.data_eq_mod (c : Command) : c.data = BitVec.ofNat 8 (c.word.toNat % 256) := by
  apply BitVec.eq_of_toNat_eq
  simp [Command.data]

/-- BYTE's word is `0x100 + b` (R83). -/
theorem commandWord_byte_eq (b : Byte) : commandWord 1 b = 0x100 + b.setWidth 10 := by
  have high : (0x100 : BitVec 10) = (1 : BitVec 2) ++ (0 : Byte) := rfl
  have low : b.setWidth 10 = (0 : BitVec 2) ++ b := by simp [BitVec.setWidth_eq_append (show 8 ≤ 10 by decide)]
  rw [commandWord, high, low]
  exact (BitVec.append_zero_add_zero_append).symm

/-- A clock operand that fits the port is presented whole (R75). -/
theorem Command.clock_of_lt {clockW : Nat} {c : Command} (h : c.now < 2 ^ clockW) : c.clock clockW = c.now := Nat.mod_eq_of_lt h

end CommandWord

/-! ### Decoding by `op` -/

section DecodeCommand

variable {c : Command} (clockW : Nat)

theorem decodeCommand_of_op_zero (h : c.op = 0) : decodeCommand clockW c = .reset := by
  simp [decodeCommand, h]

theorem decodeCommand_of_op_one (h : c.op = 1) : decodeCommand clockW c = .byte c.data (c.clock clockW) := by
  simp [decodeCommand, h]

theorem decodeCommand_of_op_two (h : c.op = 2) : decodeCommand clockW c = .check (c.clock clockW) := by
  simp [decodeCommand, h]

theorem decodeCommand_of_op_three (h : c.op = 3) : decodeCommand clockW c = .reservedOp3 := by
  simp [decodeCommand, h]

end DecodeCommand

/-! ### Decoding an opcode byte -/

theorem decodeOpcode_tagSeen (now : Nat) : decodeOpcode Config.opTagSeen now = .tagSeen now := if_pos rfl

theorem decodeOpcode_stopAck (now : Nat) : decodeOpcode Config.opStopAck now = .stopAck := rfl

theorem decodeOpcode_other {op : Byte} (now : Nat) (htag : op ≠ Config.opTagSeen) (hstop : op ≠ Config.opStopAck) :
    decodeOpcode op now = .other op := by
  rw [decodeOpcode, if_neg htag, if_neg hstop]

/-! ### Well-formed instructions -/

theorem clockFits_iff {clockW now : Nat} : clockFits clockW now = true ↔ now < 2 ^ clockW := decide_eq_true_iff

theorem wf_other_iff {clockW : Nat} {op : Byte} :
    (Instr.other op).wf clockW = true ↔ op ≠ Config.opTagSeen ∧ op ≠ Config.opStopAck := by
  rw [Instr.wf, Bool.and_eq_true, decide_eq_true_iff, decide_eq_true_iff]

/-! ### Decode and encode -/

/-- BYTE's canonical word, with a clock operand that fits the port, carries its byte and its clock. -/
theorem decodeCommand_byteWord {clockW now : Nat} (b : Byte) (hnow : now < 2 ^ clockW) :
    decodeCommand clockW ⟨commandWord 1 b, now⟩ = .byte b now := by
  rw [decodeCommand_of_op_one clockW (Command.op_commandWord 1 b now), Command.data_commandWord, Command.clock_of_lt hnow]

theorem decodeCommand_checkWord {clockW now : Nat} (hnow : now < 2 ^ clockW) :
    decodeCommand clockW ⟨commandWord 2 0, now⟩ = .check now := by
  rw [decodeCommand_of_op_two clockW (Command.op_commandWord 2 0 now), Command.clock_of_lt hnow]

/-- A well-formed host command is read back from its canonical word and its clock operand. -/
theorem decodeCommand_encode {clockW : Nat} {i : Instr} (hwf : i.wf clockW = true) (hfmt : i.format = .hostCmd) :
    ∃ c, encode i = some (.command c) ∧ decodeCommand clockW c = i := by
  cases i with
  | reset => exact ⟨_, rfl, decodeCommand_of_op_zero clockW (Command.op_commandWord 0 0 0)⟩
  | byte b now => exact ⟨_, rfl, decodeCommand_byteWord b (clockFits_iff.1 hwf)⟩
  | check now => exact ⟨_, rfl, decodeCommand_checkWord (clockFits_iff.1 hwf)⟩
  | reservedOp3 => exact ⟨_, rfl, decodeCommand_of_op_three clockW (Command.op_commandWord 3 0 0)⟩
  | _ => nomatch hfmt

/-- A well-formed frame opcode is read back from its byte, TAG_SEEN with the clock operand of the BYTE that completes its frame. -/
theorem decodeOpcode_encode {clockW : Nat} {i : Instr} (hwf : i.wf clockW = true) (hfmt : i.format = .frameOpcode) :
    ∃ op, encode i = some (.opcode op) ∧ ∀ now, (∀ t, i = .tagSeen t → t = now) → decodeOpcode op now = i := by
  cases i with
  | tagSeen t =>
    refine ⟨_, rfl, fun now hclock => ?_⟩
    rw [decodeOpcode_tagSeen, hclock t rfl]
  | stopAck => exact ⟨_, rfl, fun now _ => decodeOpcode_stopAck now⟩
  | other op =>
    obtain ⟨htag, hstop⟩ := wf_other_iff.1 hwf
    exact ⟨_, rfl, fun now _ => decodeOpcode_other now htag hstop⟩
  | _ => nomatch hfmt

theorem encode_internal {i : Instr} (hfmt : i.format = .internal) : encode i = none := by
  cases i with
  | reset | byte | check | reservedOp3 | tagSeen | stopAck | other => nomatch hfmt
  | _ => rfl

/-- Settles O2, format by format. -/
theorem decodeOfEncodeIsTheInstruction : Obligations.DecodeOfEncodeIsTheInstruction := fun _ _ hwf =>
  ⟨decodeCommand_encode hwf, decodeOpcode_encode hwf, encode_internal⟩

/-- Settles O1: each masked word tested for is `commandWord op 0` for its own `op`. -/
theorem commandWordsFollowMatchAndMask : Obligations.CommandWordsFollowMatchAndMask := by
  refine ⟨fun clockW c hnow => ⟨?reset, ?byte, ?check, ?reserved⟩, rfl, ?encodeByte, fun _ => rfl⟩
  case reset => exact fun hmask => decodeCommand_of_op_zero clockW ((c.masked_eq_iff 0).1 hmask)
  case byte =>
    intro hmask
    rw [decodeCommand_of_op_one clockW ((c.masked_eq_iff 1).1 hmask), c.data_eq_mod, Command.clock_of_lt hnow]
  case check =>
    intro hmask
    rw [decodeCommand_of_op_two clockW ((c.masked_eq_iff 2).1 hmask), Command.clock_of_lt hnow]
  case reserved => exact fun hmask => decodeCommand_of_op_three clockW ((c.masked_eq_iff 3).1 hmask)
  case encodeByte =>
    intro b now
    rw [encode, commandWord_byte_eq]

/-! ### What decodes is well-formed -/

/-- The decoder's cut of the clock to the port's wires makes every decoded clock operand fit. -/
theorem decodeCommand_wf (clockW : Nat) (c : Command) :
    (decodeCommand clockW c).wf clockW = true ∧ (decodeCommand clockW c).format = .hostCmd := by
  have clock_fits := clockFits_iff.2 (Command.clock_lt clockW c)
  rcases decodeCommand_cases clockW c with ⟨-, hdec⟩ | ⟨-, hdec⟩ | ⟨-, hdec⟩ | ⟨-, hdec⟩ <;> rw [hdec]
  · exact ⟨rfl, rfl⟩
  · exact ⟨clock_fits, rfl⟩
  · exact ⟨clock_fits, rfl⟩
  · exact ⟨rfl, rfl⟩

theorem decodeOpcode_wf {clockW now : Nat} (op : Byte) (hnow : now < 2 ^ clockW) :
    (decodeOpcode op now).wf clockW = true ∧ (decodeOpcode op now).format = .frameOpcode := by
  by_cases htag : op = Config.opTagSeen
  · rw [htag, decodeOpcode_tagSeen]
    exact ⟨clockFits_iff.2 hnow, rfl⟩
  by_cases hstop : op = Config.opStopAck
  · rw [hstop, decodeOpcode_stopAck]
    exact ⟨rfl, rfl⟩
  rw [decodeOpcode_other now htag hstop]
  exact ⟨wf_other_iff.2 ⟨htag, hstop⟩, rfl⟩

/-- Settles O3. -/
theorem decodedInstructionsAreWellFormed : Obligations.DecodedInstructionsAreWellFormed :=
  ⟨decodeCommand_wf, fun _ _ op hnow => decodeOpcode_wf op hnow⟩

/-- Settles O4, by running the decoders on the words. -/
theorem sampleWordsDecode : Obligations.SampleWordsDecode := by
  unfold Obligations.SampleWordsDecode
  decide

end Sys2Proof

namespace Sys2Proof.Machine

/-! ### The reserved word -/

theorem exec_reservedOp3 (s : State) : exec .reservedOp3 s = .refused .reservedCommand := rfl

theorem step_of_input {s : State} {c : Command} {rest : List Command} (h : s.input = c :: rest) :
    step s = exec (decodeCommand s.params.clockW c) { s with input := rest } := by
  rcases step_cases s with ⟨hempty, -⟩ | ⟨c', rest', hinput, heq⟩
  · exact absurd (hempty.symm.trans h) (List.cons_ne_nil c rest).symm
  · obtain ⟨rfl, rfl⟩ := List.cons.inj (hinput.symm.trans h)
    exact heq

/-- Settles O9: the word decodes to the row that is refused in every state. -/
theorem reservedCommandIsRefused : Obligations.ReservedCommandIsRefused := by
  refine ⟨exec_reservedOp3, fun s c rest hinput hmask => ?_⟩
  rw [step_of_input hinput, decodeCommand_of_op_three _ ((c.masked_eq_iff 3).1 hmask), exec_reservedOp3]

end Sys2Proof.Machine
end

section
/-! PROOFS. The frame encoding (30_encoding R71 to R73, R77, R78): what a buffer holds, piece by piece; that a frame built by the
rule for `ck` passes VALIDATE; and that a tag-seen frame's fields are read back unchanged. -/

namespace Sys2Proof.Machine

/-! ### Bytes held from an index -/

/-- The buffer holds a byte sequence from index `i`; `State.holds` is the case `i = 0`. -/
def State.holdsFrom (s : State) (i : Nat) (bs : List Byte) : Prop := (List.range' i bs.length).map s.read = bs

section Holds

variable {s : State} {i : Nat}

theorem State.holdsFrom_iff {bs : List Byte} : s.holdsFrom i bs ↔ ∀ k (hk : k < bs.length), s.read (i + k) = bs[k] := by
  rw [State.holdsFrom, List.ext_getElem_iff]
  simp

theorem State.holds_iff_holdsFrom {bs : List Byte} : s.holds bs ↔ s.holdsFrom 0 bs := by
  rw [State.holdsFrom_iff]
  refine forall₂_congr fun k hk => ?_
  rw [Nat.zero_add, List.getD_eq_getElem bs 0 hk]

@[simp] theorem State.holdsFrom_nil : s.holdsFrom i [] := rfl

@[simp] theorem State.holdsFrom_cons {b : Byte} {bs : List Byte} :
    s.holdsFrom i (b :: bs) ↔ s.read i = b ∧ s.holdsFrom (i + 1) bs := by
  simp [State.holdsFrom, List.range'_succ]

@[simp] theorem State.holdsFrom_append {as bs : List Byte} :
    s.holdsFrom i (as ++ bs) ↔ s.holdsFrom i as ∧ s.holdsFrom (i + as.length) bs := by
  rw [State.holdsFrom, List.length_append, ← List.range'_append_1, List.map_append]
  exact ⟨fun h => List.append_inj h (by simp), fun ⟨has, hbs⟩ => congrArg₂ (· ++ ·) has hbs⟩

/-! ### What is read back from held bytes -/

@[simp] theorem beBytes_length (n v : Nat) : (beBytes n v).length = n := by
  induction n with
  | zero => rfl
  | succ n ih => rw [beBytes, List.length_cons, ih]

/-- `MemRead` reads back the value whose big-endian bytes the buffer holds, as far as they carry it. -/
theorem State.memRead_of_holdsFrom {n v : Nat} (h : s.holdsFrom i (beBytes n v)) : s.memRead i n = v % 256 ^ n := by
  induction n generalizing i with
  | zero => rw [State.memRead, Nat.pow_zero, Nat.mod_one]
  | succ n ih =>
    obtain ⟨hhead, htail⟩ := State.holdsFrom_cons.1 h
    rw [State.memRead, hhead, ih htail, BitVec.toNat_ofNat, Nat.mod_pow_succ (x := v)]
    ring

/-- A value of `8 * n` bits is read back whole. -/
theorem State.ofNat_memRead_of_holdsFrom {n w : Nat} {x : BitVec w} (hw : 2 ^ w = 256 ^ n)
    (h : s.holdsFrom i (beBytes n x.toNat)) : BitVec.ofNat w (s.memRead i n) = x := by
  rw [State.memRead_of_holdsFrom h, ← hw, Nat.mod_eq_of_lt x.isLt, BitVec.ofNat_toNat, BitVec.setWidth_eq]

/-- The validator folds the bytes held from index 2, the first that the checksum covers (R78). -/
theorem State.xorFold_of_holdsFrom {bs : List Byte} (h : s.holdsFrom 2 bs) : s.xorFold (2 + bs.length) = xorBytes bs := by
  rw [State.xorFold, Nat.add_sub_cancel_left, h]

theorem State.tag_of_holdsFrom {tag : Tag} (h : s.holdsFrom 7 tag.toList) : s.tag = tag := by
  refine Vector.ext fun k hk => ?_
  rw [State.tag, Vector.getElem_ofFn, State.holdsFrom_iff.1 h k (by rwa [Vector.length_toList]), Vector.getElem_toList]

end Holds

/-! ### Frames built by the rule for `ck` -/

section Frame

variable {s : State} {opcode : Byte} {payload : List Byte}

@[simp] theorem frameCovered_length (opcode : Byte) (payload : List Byte) :
    (frameCovered opcode payload).length = payload.length + 3 := by
  rw [frameCovered, List.length_append, beBytes_length, List.length_cons]
  omega

@[simp] theorem frameBytes_length (opcode : Byte) (payload : List Byte) :
    (frameBytes opcode payload).length = payload.length + 8 := by
  simp [frameBytes]

/-- Where the pieces of a frame stand: markers, covered bytes and checksum (R71, R72, R78). -/
theorem State.holds_frameBytes :
    s.holds (frameBytes opcode payload) ↔
      (s.read 0 = Config.s0 ∧ s.read 1 = Config.s1) ∧ s.holdsFrom 2 (frameCovered opcode payload) ∧
        s.read (payload.length + 5) = xorBytes (frameCovered opcode payload) ∧
        s.read (payload.length + 6) = Config.e0 ∧ s.read (payload.length + 7) = Config.e1 := by
  have checksum_index : 2 + (payload.length + 3) = payload.length + 5 := by omega
  simp [State.holds_iff_holdsFrom, frameBytes, checksum_index, and_assoc]

/-- Where the covered bytes stand: data length, opcode and payload (R71). -/
theorem State.holdsFrom_frameCovered :
    s.holdsFrom 2 (frameCovered opcode payload) ↔
      s.holdsFrom 2 (beBytes 2 (payload.length + 8)) ∧ s.read 4 = opcode ∧ s.holdsFrom 5 payload := by
  simp [frameCovered]

theorem State.opcode_of_frame (h : s.holds (frameBytes opcode payload)) : s.opcode = opcode := by
  obtain ⟨-, hcovered, -⟩ := State.holds_frameBytes.1 h
  exact (State.holdsFrom_frameCovered.1 hcovered).2.1

/-- A frame's data length is its own length, if that fits the two bytes of the field. -/
theorem State.dataLength_of_frame (h : s.holds (frameBytes opcode payload)) (hfits : payload.length + 8 < 65536) :
    s.dataLength = payload.length + 8 := by
  obtain ⟨-, hcovered, -⟩ := State.holds_frameBytes.1 h
  obtain ⟨hlength, -⟩ := State.holdsFrom_frameCovered.1 hcovered
  exact (State.memRead_of_holdsFrom hlength).trans (Nat.mod_eq_of_lt hfits)

/-- Every check of R145 passes on such a frame. -/
theorem State.verdict_of_frame (h : s.holds (frameBytes opcode payload)) (hfits : payload.length + 8 < 65536)
    (hlen : s.frameLen = payload.length + 8) : s.verdict = none := by
  have hdl := State.dataLength_of_frame h hfits
  obtain ⟨hstart, hcovered, hck, hend⟩ := State.holds_frameBytes.1 h
  rw [s.verdict_eq_none, s.startOk_iff, s.endOk_iff, s.lengthOk_iff, s.checksumOk_iff, hdl, hlen]
  refine ⟨hstart, hend, by omega, ?checksum⟩
  case checksum =>
    have hfold := State.xorFold_of_holdsFrom hcovered
    rw [frameCovered_length] at hfold
    rw [show payload.length + 8 - 3 = payload.length + 5 by omega, hck, ← hfold, Nat.add_comm 2]

end Frame

/-! ### VALIDATE -/

/-- A frame that passes is handed to DISPATCH (42_frame_validator R140). -/
theorem exec_validate_of_passes {s : State} (now : Nat) (hmin : 2 ≤ s.frameLen) (hcap : s.frameLen ≤ s.params.cap)
    (h : s.verdict = none) : exec (.validate now) s = exec (.dispatch now) s := by
  rcases s.validate_cases now with ⟨code, hcode, -⟩ | ⟨-, heq⟩
  · exact nomatch h.symm.trans hcode
  · rw [exec_validate, execValidate_eq_next now hmin hcap, heq]
    rfl

/-- DISPATCH on `OP_TAG_SEEN` is TAG_SEEN (43_field_decoder R160). -/
theorem exec_dispatch_of_tagSeen {s : State} (now : Nat) (h : s.opcode = Config.opTagSeen) :
    exec (.dispatch now) s = exec (.tagSeen now) s :=
  congrArg Host.Outcome.next (if_pos h)

/-- Settles O6. -/
theorem encodedFramesPassValidation : Obligations.EncodedFramesPassValidation := by
  intro s opcode payload now hfits hcap hholds hlen
  exact ⟨State.opcode_of_frame hholds,
    exec_validate_of_passes now (by omega) (by omega) (State.verdict_of_frame hholds hfits hlen)⟩

/-! ### Tag-seen frames -/

section TagFrame

variable (product : BitVec 16) (tag : Tag) (rssi : BitVec 16) (ant : Byte) (khz : BitVec 24) (phase : Byte)

theorem tagPayload_length : (tagPayload product tag rssi ant khz phase).length = 21 := by
  simp [tagPayload]

theorem tagFrameBytes_length : (tagFrameBytes product tag rssi ant khz phase).length = 29 := by
  rw [tagFrameBytes, frameBytes_length, tagPayload_length]

variable {product tag rssi ant khz phase}

/-- The fields of a tag-seen payload, each at R73's index. -/
theorem State.holdsFrom_tagPayload {s : State} :
    s.holdsFrom 5 (tagPayload product tag rssi ant khz phase) ↔
      s.holdsFrom 5 (beBytes 2 product.toNat) ∧ s.holdsFrom 7 tag.toList ∧ s.holdsFrom 19 (beBytes 2 rssi.toNat) ∧
        s.read 21 = ant ∧ s.holdsFrom 22 (beBytes 3 khz.toNat) ∧ s.read 25 = phase := by
  simp [tagPayload]

/-- The report of a tag-seen frame is its fields and the strength of its RSSI code (43_field_decoder R162). -/
theorem State.report_of_tagPayload {s : State} (hop : s.opcode = Config.opTagSeen)
    (h : s.holdsFrom 5 (tagPayload product tag rssi ant khz phase)) :
    s.report = ⟨Config.opTagSeen, product, tag, rssi, ant, khz, phase, strength5 rssi⟩ := by
  obtain ⟨hproduct, htag, hrssi, hant, hkhz, hphase⟩ := State.holdsFrom_tagPayload.1 h
  have product_eq : s.product = product := State.ofNat_memRead_of_holdsFrom rfl hproduct
  have rssi_eq : s.rssiRaw = rssi := State.ofNat_memRead_of_holdsFrom rfl hrssi
  have khz_eq : s.freqKHz = khz := State.ofNat_memRead_of_holdsFrom rfl hkhz
  rw [State.report, hop, product_eq, State.tag_of_holdsFrom htag, rssi_eq, khz_eq, State.ant, hant, State.phase, hphase]

end TagFrame

/-- Settles O5: the frame passes as any encoded frame does, and its payload's fields stand where the decoder reads them. -/
theorem tagFrameFieldsSurviveEncoding : Obligations.TagFrameFieldsSurviveEncoding := by
  intro s product tag rssi ant khz phase now hholds hlen
  have hpayload := tagPayload_length product tag rssi ant khz phase
  have hcap := s.params.cap_min
  have hop : s.opcode = Config.opTagSeen := State.opcode_of_frame hholds
  obtain ⟨-, hvalidate⟩ := encodedFramesPassValidation s _ _ now (by omega) (by omega) hholds (by omega)
  obtain ⟨-, hcovered, -⟩ := State.holds_frameBytes.1 hholds
  obtain ⟨-, -, hfields⟩ := State.holdsFrom_frameCovered.1 hcovered
  exact ⟨tagFrameBytes_length product tag rssi ant khz phase, hvalidate.trans (exec_dispatch_of_tagSeen now hop),
    State.report_of_tagPayload hop hfields⟩

end Sys2Proof.Machine
end

section
/-! PROOFS. The step and the host commands (40_host_step R100 to R111; 30_encoding R75): what a step runs, RESET twice, the modular
clock behind CHECK's comparator, and the two caches that a tag-seen report goes to. -/

namespace Sys2Proof.Machine

/-! ### The step and RESET -/

theorem step_of_empty {s : State} (h : s.input = []) : step s = .next s := by
  rcases step_cases s with ⟨-, heq⟩ | ⟨c, rest, hinput, -⟩
  · exact heq
  · exact absurd (h.symm.trans hinput) (List.cons_ne_nil c rest).symm

/-- Settles O8. -/
theorem stepRunsTheDecodedCommand : Obligations.StepRunsTheDecodedCommand :=
  ⟨fun _ _ _ hinput => step_of_input hinput, fun _ hempty => step_of_empty hempty⟩

theorem exec_reset (s : State) : exec .reset s = .next s.resetCommand := rfl

/-- RESET reads only what it keeps: the parameters, the output and the port. -/
theorem State.resetCommand_congr {s t : State} (hparams : s.params = t.params) (hout : s.out = t.out) (hinput : s.input = t.input) :
    s.resetCommand = t.resetCommand := by
  rw [State.resetCommand, State.resetCommand, hparams, hout, hinput]

/-- Settles O11. -/
theorem resetIsIdempotent : Obligations.ResetIsIdempotent := by
  intro s
  have again : s.resetCommand.resetCommand = s.resetCommand :=
    State.resetCommand_congr s.resetCommand_params s.resetCommand_out s.resetCommand_input
  exact ⟨s.resetCommand, exec_reset s, by rw [exec_reset, again], s.resetCommand_out⟩

/-! ### The modular clock -/

theorem age_lt (clockW now t : Nat) : age clockW now t < 2 ^ clockW := by
  have cast_lt : ((age clockW now t : Nat) : Int) < ((2 ^ clockW : Nat) : Int) := by
    rw [age_cast]
    exact Int.emod_lt_of_pos _ (by positivity)
  exact Int.ofNat_lt.1 cast_lt

/-- The age after `d` ticks is `d` up to the modulus, wherever the two readings wrap. -/
theorem age_add (clockW t d : Nat) : age clockW ((t + d) % 2 ^ clockW) (t % 2 ^ clockW) = d % 2 ^ clockW := by
  rw [← Int.natCast_inj, age_cast, Int.natCast_mod, Int.natCast_mod, Int.natCast_mod, ← Int.sub_emod, Int.natCast_add,
    add_sub_cancel_left]

/-- Settles O14: both readings of the clock after `t` are `age_add`, at `d` and at the modulus itself. -/
theorem ageIsTheModularElapsedTime : Obligations.AgeIsTheModularElapsedTime := by
  intro clockW now t
  refine ⟨age_cast clockW now t, age_lt clockW now t, fun d hd => ?_, ?_⟩
  · rw [age_add, Nat.mod_eq_of_lt hd]
  · rw [age_add, Nat.mod_self]

/-! ### CHECK -/

theorem exec_drain (s : State) : exec .drain s = .next s.drain := rfl
theorem exec_sweep (now : Nat) (s : State) : exec (.sweep now) s = .next (s.sweep now) := rfl

/-- The comparator in the integers of 40_host_step R104. -/
theorem State.flushDue_iff (s : State) (now : Nat) :
    s.flushDue now = true ↔
      (s.params.flushInterval : Int) ≤ ((now : Int) - s.lastFlush) % ((2 ^ s.params.clockW : Nat) : Int) := by
  rw [State.flushDue, decide_eq_true_iff, ← age_cast, Int.ofNat_le]

/-- Settles O13. -/
theorem checkDrainsThenSweepsWhenDue : Obligations.CheckDrainsThenSweepsWhenDue := by
  intro s now
  refine ⟨fun hdue => ?_, fun hearly => ?_⟩
  · have fires : s.flushDue now = true := (s.flushDue_iff now).2 hdue
    exact ⟨s.drain, s.drain.sweep now, exec_drain s, exec_sweep now s.drain, by rw [exec_check, State.check_of_due fires]⟩
  · have waits : s.flushDue now = false :=
      Bool.eq_false_iff.2 fun fires => Int.not_le.2 hearly ((s.flushDue_iff now).1 fires)
    rw [exec_check, State.check_of_not_due waits]

/-! ### The two caches -/

theorem exec_observe (tag : Tag) (ant : Byte) (now : Nat) (s : State) :
    exec (.observe tag ant now) s = .next (s.observe tag ant now) := rfl
theorem exec_enqueue (r : Report) (s : State) : exec (.enqueue r) s = .next (s.enqueue r) := rfl
theorem exec_tagSeen (now : Nat) (s : State) : exec (.tagSeen now) s = .next (s.decTagSeen now) := rfl

theorem State.enqueue_reg (r : Report) (s : State) : (s.enqueue r).reg = s.reg := by
  obtain ⟨q', evs, heq, -⟩ := s.enqueue_frame r
  rw [heq]

theorem State.observe_params (tag : Tag) (ant : Byte) (now : Nat) (s : State) : (s.observe tag ant now).params = s.params :=
  (s.observe_keeps now tag ant).params_eq

theorem State.observe_q (tag : Tag) (ant : Byte) (now : Nat) (s : State) : (s.observe tag ant now).q = s.q := by
  obtain ⟨reg', evs, heq, -⟩ := s.observe_frame tag ant now
  rw [heq]

/-- The queue ENQUEUE leaves depends on the queue and its capacity alone. -/
theorem State.enqueue_q_congr {s t : State} (r : Report) (hq : s.q = t.q) (hparams : s.params = t.params) :
    (s.enqueue r).q = (t.enqueue r).q := by
  unfold State.enqueue
  rw [hq, hparams]
  cases replaceReport r t.q with
  | some q' => rfl
  | none =>
    by_cases hroom : t.q.length < t.params.qCap
    · simp only [if_pos hroom]
    · simp only [if_neg hroom, State.warn_q, hq]

theorem State.decTagSeen_reg (now : Nat) (s : State) :
    (s.decTagSeen now).reg = (s.observe s.report.tag s.report.ant now).reg := State.enqueue_reg _ _

/-- OBSERVE leaves alone all that ENQUEUE's queue depends on. -/
theorem State.decTagSeen_q (now : Nat) (s : State) : (s.decTagSeen now).q = (s.enqueue s.report).q :=
  State.enqueue_q_congr s.report (s.observe_q _ _ now) (s.observe_params _ _ now)

/-- Settles O33. -/
theorem cachesAreUpdatedIndependently : Obligations.CachesAreUpdatedIndependently := fun s now =>
  ⟨s.observe s.report.tag s.report.ant now, s.decTagSeen now, s.enqueue s.report, exec_observe _ _ now s, exec_enqueue _ _,
    exec_tagSeen now s, exec_enqueue _ s, s.decTagSeen_reg now, s.decTagSeen_q now⟩

end Sys2Proof.Machine
end

section
/-! PROOFS. The Frame Assembler (41_frame_assembler): what each of the six paths writes and leaves alone, that BYTE is the path the
table selects and then `prev <- b`, and that a frame the format can carry intact is reassembled byte for byte. -/

namespace Sys2Proof.Machine

/-! ### The meanings of the six paths -/

theorem exec_start (b : Byte) (s : State) : exec (.start b) s = .next s.start := rfl
theorem exec_endOvf (s : State) : exec .endOvf s = .next s.endOvf := rfl
theorem exec_accOvf (b : Byte) (s : State) : exec (.accOvf b) s = .next (s.accOvf b) := rfl
theorem exec_discard (b : Byte) (s : State) : exec (.discard b) s = .next s := rfl

theorem exec_endFrame_of_inside {s : State} (now : Nat) (hpos : 1 ≤ s.cursor) (hroom : s.cursor < s.params.cap) :
    exec (.endFrame now) s = .next (s.completeFrame.validate now) := by
  simp [exec_endFrame, execEndFrame, State.endInBuffer, State.endFrame, hpos, hroom]

theorem exec_acc_of_room {s : State} (b : Byte) (hroom : s.cursor < s.params.cap) : exec (.acc b) s = .next (s.acc b) := by
  simp [exec_acc, execAcc, State.accInBuffer, hroom]

/-- VALIDATE reads inside the buffer on a frame that END completed. -/
theorem exec_validate_completeFrame {s : State} (now : Nat) (hpos : 1 ≤ s.cursor) (hroom : s.cursor < s.params.cap) :
    exec (.validate now) s.completeFrame = .next (s.completeFrame.validate now) :=
  execValidate_eq_next now (Nat.succ_le_succ hpos) hroom

/-! ### BYTE on each path -/

section Byte

variable {s : State} {b : Byte} (now : Nat)

/-- A BYTE whose path stays in the buffer is that path and then `prev <- b`. -/
theorem exec_byte_of_path {path : AssemblerPath} (hpath : s.selectPath b = path) (hinside : s.pathInBuffer path = true) :
    exec (.byte b now) s = .next { s.runPath path b now with prev := b } := by
  rw [exec_byte, execByte_of_path now hpath, hinside, onBuffer_true]

theorem exec_byte_start (hprev : s.prev = Config.s0) :
    exec (.byte Config.s1 now) s = .next { s.start with prev := Config.s1 } :=
  exec_byte_of_path now (State.selectPath_start hprev rfl) rfl

theorem exec_byte_endFrame (hasm : s.asm = true) (hprev : s.prev = Config.e0) (hpos : 1 ≤ s.cursor)
    (hroom : s.cursor < s.params.cap) :
    exec (.byte Config.e1 now) s = .next { s.completeFrame.validate now with prev := Config.e1 } :=
  exec_byte_of_path now (State.selectPath_endFrame hasm hprev rfl hroom)
    (by simp [State.pathInBuffer, State.endInBuffer, hpos, hroom])

theorem exec_byte_endOvf (hasm : s.asm = true) (hprev : s.prev = Config.e0) (hfull : s.params.cap ≤ s.cursor) :
    exec (.byte Config.e1 now) s = .next { s.endOvf with prev := Config.e1 } :=
  exec_byte_of_path now (State.selectPath_endOvf hasm hprev rfl hfull) rfl

theorem exec_byte_accOvf (hasm : s.asm = true) (hstart : ¬(s.prev = Config.s0 ∧ b = Config.s1))
    (hend : ¬(s.prev = Config.e0 ∧ b = Config.e1)) (hfull : s.params.cap ≤ s.cursor) :
    exec (.byte b now) s = .next { s.accOvf b with prev := b } :=
  exec_byte_of_path now (State.selectPath_accOvf hasm hstart hend hfull) rfl

theorem exec_byte_acc (hasm : s.asm = true) (hstart : ¬(s.prev = Config.s0 ∧ b = Config.s1))
    (hend : ¬(s.prev = Config.e0 ∧ b = Config.e1)) (hroom : s.cursor < s.params.cap) :
    exec (.byte b now) s = .next { s.acc b with prev := b } :=
  exec_byte_of_path now (State.selectPath_acc hasm hstart hend hroom) (decide_eq_true hroom)

theorem exec_byte_discard (hasm : s.asm = false) (hstart : ¬(s.prev = Config.s0 ∧ b = Config.s1)) :
    exec (.byte b now) s = .next { s with prev := b } :=
  exec_byte_of_path now (State.selectPath_discard hasm hstart) rfl

end Byte

/-! ### What the paths leave in the buffer -/

section Reads

variable {s : State}

/-- Two writes after one another, in a canonical buffer. -/
theorem Memory.get_set_set {cap i j : Nat} {m : Memory} (v w : Byte) (hwf : m.wf cap = true) (hi : i < cap) (a : Nat) :
    ((m.set i v).set j w).get a = if a = j then w else if a = i then v else m.get a := by
  rw [Memory.get_set w (Memory.set_wf hwf hi), Memory.get_set v hwf]

theorem State.read_start (hwf : s.buf.wf s.params.cap = true) (a : Nat) :
    s.start.read a = if a = 0 then Config.s0 else if a = 1 then Config.s1 else s.read a := by
  have cap_pos : 0 < s.params.cap := lt_of_lt_of_le (by decide) s.params.cap_min
  rw [State.read, s.start_buf, Memory.get_set_set _ _ hwf cap_pos]
  by_cases h0 : a = 0
  · simp [h0]
  · simp [h0, State.read]

theorem State.read_completeFrame (hwf : s.buf.wf s.params.cap = true) (hroom : s.cursor < s.params.cap) (a : Nat) :
    s.completeFrame.read a = if a = s.cursor then Config.e1 else if a = s.cursor - 1 then Config.e0 else s.read a :=
  Memory.get_set_set _ _ hwf (lt_of_le_of_lt (Nat.sub_le _ _) hroom) a

theorem State.read_acc (hwf : s.buf.wf s.params.cap = true) (b : Byte) (a : Nat) :
    (s.acc b).read a = if a = s.cursor then b else s.read a := Memory.get_set b hwf

theorem State.read_accOvf (hwf : s.buf.wf s.params.cap = true) (b : Byte) (a : Nat) :
    (s.accOvf b).read a = if a = s.params.cap - 3 then b else s.read a := Memory.get_set b hwf

end Reads

/-! ### One statement for each path -/

/-- Settles O17. -/
theorem startBeginsAFrame : Obligations.StartBeginsAFrame := by
  intro s b hwf
  exact ⟨s.start, exec_start b s, s.start_buf ▸ s.start_eq, State.read_start hwf, fun hprev now => exec_byte_start now hprev⟩

/-- Settles O18. -/
theorem endCompletesAndValidatesTheFrame : Obligations.EndCompletesAndValidatesTheFrame := by
  intro s now hwf hpos hcur
  have hroom : s.cursor < s.params.cap := by omega
  exact ⟨s.completeFrame, s.completeFrame.validate now, rfl, State.read_completeFrame hwf hroom,
    exec_validate_completeFrame now hpos hroom, exec_endFrame_of_inside now hpos hroom,
    fun hasm hprev => exec_byte_endFrame now hasm hprev hpos hroom⟩

/-- Settles O20. -/
theorem accAppendsOneByte : Obligations.AccAppendsOneByte := by
  intro s b hwf hcur
  have hroom : s.cursor < s.params.cap := by
    have := s.params.cap_min
    omega
  exact ⟨s.acc b, exec_acc_of_room b hroom, rfl, State.read_acc hwf b,
    fun hasm hstart hend now => exec_byte_acc now hasm hstart hend hroom⟩

/-- Settles O21: `CAP` is at least 29 (00_scope R5). -/
theorem accWithFullBufferClampsThenWrites : Obligations.AccWithFullBufferClampsThenWrites := by
  intro s b hwf
  exact ⟨s.accOvf b, exec_accOvf b s, rfl, State.read_accOvf hwf b, Nat.le_sub_of_add_le s.params.cap_min,
    fun hasm hfull hstart hend now => exec_byte_accOvf now hasm hstart hend hfull⟩

/-- Settles O19. -/
theorem endWithFullBufferClamps : Obligations.EndWithFullBufferClamps := fun s now =>
  ⟨exec_endOvf s, fun hasm hprev hfull => exec_byte_endOvf now hasm hprev hfull.ge⟩

/-- Settles O22. -/
theorem discardChangesOnlyPrev : Obligations.DiscardChangesOnlyPrev := fun s b =>
  ⟨exec_discard b s, fun hasm hstart now => exec_byte_discard now hasm hstart⟩

/-! ### The table of paths -/

/-- The instruction that applies a path directly (30_encoding R84). -/
def pathInstr (b : Byte) (now : Nat) : AssemblerPath → Instr
  | .start => .start b
  | .endFrame => .endFrame now
  | .endOvf => .endOvf
  | .accOvf => .accOvf b
  | .acc => .acc b
  | .discard => .discard b

theorem exec_pathInstr (path : AssemblerPath) (b : Byte) (now : Nat) (s : State) :
    exec (pathInstr b now path) s = onBuffer (s.pathInBuffer path) (s.runPath path b now) := by
  cases path <;> rfl

/-- The selected path stays in the buffer, since no frame is in progress with the cursor at 0 (10_state R36 (b)). -/
theorem Inv.selectedPath_inside {s : State} (h : Inv s) (b : Byte) : s.pathInBuffer (s.selectPath b) = true := by
  rw [← Bool.not_eq_false, s.selectedPath_outside_iff]
  rintro ⟨hasm, -, -, hzero⟩
  have := h.busy_cursor hasm
  omega

/-- The conditions of the table, in its order, select the model's path (41_frame_assembler R127); a cursor above `CAP`, which
the model takes as full and the table does not name, is excluded by the invariants. -/
theorem Inv.pathTable_eq {s : State} (h : Inv s) (b : Byte) (now : Nat) :
    (if s.prev = Config.s0 ∧ b = Config.s1 then .start b
      else if s.asm = true ∧ s.prev = Config.e0 ∧ b = Config.e1 ∧ s.cursor ≤ s.params.cap - 1 then .endFrame now
      else if s.asm = true ∧ s.prev = Config.e0 ∧ b = Config.e1 ∧ s.cursor = s.params.cap then .endOvf
      else if s.asm = true ∧ s.params.cap ≤ s.cursor then .accOvf b
      else if s.asm = true ∧ s.cursor ≤ s.params.cap - 1 then .acc b
      else .discard b) = pathInstr b now (s.selectPath b) := by
  have hcap := s.params.cap_min
  rcases s.selectPath_cases b with ⟨hpath, hpair⟩ | ⟨hstart, ⟨hpath, hasm, hprev, hb, hroom⟩ | ⟨hpath, hasm, hprev, hb, hfull⟩ |
    ⟨hpath, hasm, hend, hfull⟩ | ⟨hpath, hasm, hend, hroom⟩ | ⟨hpath, hasm⟩⟩ <;> rw [hpath]
  · rw [if_pos hpair]; rfl
  · rw [if_neg hstart, if_pos ⟨hasm, hprev, hb, by omega⟩]; rfl
  · have := h.busy_cursor hasm
    rw [if_neg hstart, if_neg (by omega), if_pos ⟨hasm, hprev, hb, by omega⟩]; rfl
  · have no_end : ∀ {P : Prop}, ¬(s.asm = true ∧ s.prev = Config.e0 ∧ b = Config.e1 ∧ P) :=
      fun ⟨_, hprev, hb, _⟩ => hend ⟨hprev, hb⟩
    rw [if_neg hstart, if_neg no_end, if_neg no_end, if_pos ⟨hasm, hfull⟩]; rfl
  · have no_end : ∀ {P : Prop}, ¬(s.asm = true ∧ s.prev = Config.e0 ∧ b = Config.e1 ∧ P) :=
      fun ⟨_, hprev, hb, _⟩ => hend ⟨hprev, hb⟩
    rw [if_neg hstart, if_neg no_end, if_neg no_end, if_neg (by omega), if_pos ⟨hasm, by omega⟩]; rfl
  · rw [if_neg hstart]
    simp [hasm, pathInstr]

/-- Settles O12. -/
theorem byteTakesTheFirstPathThatHolds : Obligations.ByteTakesTheFirstPathThatHolds := by
  intro s b now h
  have inside := h.selectedPath_inside b
  refine ⟨s.runPath (s.selectPath b) b now, (congrArg (exec · s) (h.pathTable_eq b now)).trans ?_,
    exec_byte_of_path now rfl inside⟩
  rw [exec_pathInstr, inside, onBuffer_true]

/-! ### Steps that take bytes from the port -/

/-- One more step at the end of a run. -/
theorem runSteps_succ {k : Nat} {s t : State} (h : runSteps k s = .next t) : runSteps (k + 1) s = step t := by
  induction k generalizing s with
  | zero =>
    cases h
    rw [runSteps]
    cases hstep : step t <;> simp [runSteps]
  | succ k ih =>
    rw [runSteps] at h ⊢
    cases hstep : step s with
    | next u => rw [hstep] at h; exact ih h
    | fault r => rw [hstep] at h; cases h
    | refused r => rw [hstep] at h; cases h

theorem step_of_traceByte {s : State} {b : Byte} {now : Nat} {rest : List Command} (hinput : s.input = traceByte b now :: rest)
    (hnow : now < 2 ^ s.params.clockW) : step s = exec (.byte b now) { s with input := rest } := by
  rw [step_of_input hinput, traceByte, decodeCommand_byteWord b hnow]

/-- The bytes of a frame from index `k` on arrive one command at a time. -/
theorem traceFrame_drop {frame : List Byte} {k : Nat} (now : Nat) (hk : k < frame.length) :
    traceFrame (frame.drop k) now = traceByte (frame.getD k 0) now :: traceFrame (frame.drop (k + 1)) now := by
  rw [List.drop_eq_getElem_cons hk, List.getD_eq_getElem frame 0 hk]
  rfl

/-! ### What consecutive writes leave in the buffer -/

section WriteBytes

variable {s : State}

theorem State.read_writeBytes_outside {bs : List Byte} {i a : Nat} (h : a < i ∨ i + bs.length ≤ a) :
    (s.writeBytes i bs).read a = s.read a := by
  induction bs generalizing s i with
  | nil => rfl
  | cons b bs ih =>
    rw [List.length_cons] at h
    rw [State.writeBytes, ih (by omega), State.read_write_ne (by omega)]

theorem State.writeBytes_holdsFrom {bs : List Byte} {i cap : Nat} (hwf : s.buf.wf cap = true) (hfits : i + bs.length ≤ cap) :
    (s.writeBytes i bs).holdsFrom i bs := by
  induction bs generalizing s i with
  | nil => rfl
  | cons b bs ih =>
    rw [List.length_cons] at hfits
    have written : (s.write i b).read i = b := Memory.get_set_self b hwf
    rw [State.writeBytes, State.holdsFrom_cons, State.read_writeBytes_outside (.inl (Nat.lt_succ_self i))]
    exact ⟨written, ih (Memory.set_wf hwf (by omega)) (by omega)⟩

theorem State.writeBytes_append (i : Nat) (as bs : List Byte) :
    s.writeBytes i (as ++ bs) = (s.writeBytes i as).writeBytes (i + as.length) bs := by
  induction as generalizing s i with
  | nil => rfl
  | cons a as ih => rw [List.cons_append, State.writeBytes, ih, List.length_cons, Nat.add_right_comm, Nat.add_assoc]; rfl

/-- The next byte of a sequence goes after the ones already written. -/
theorem State.writeBytes_take_succ {bs : List Byte} {k : Nat} (hk : k < bs.length) :
    s.writeBytes 0 (bs.take (k + 1)) = (s.writeBytes 0 (bs.take k)).write k (bs.getD k 0) := by
  rw [List.take_succ_eq_append_getElem hk, State.writeBytes_append, List.length_take_of_le hk.le, Nat.zero_add,
    List.getD_eq_getElem bs 0 hk]
  rfl

end WriteBytes

/-! ### The markers of a frame the format can carry intact (30_encoding R81) -/

section CarriedIntact

variable {frame : List Byte} (h : carriedIntact frame)
include h

theorem carriedIntact.four_le : 4 ≤ frame.length := h.1

theorem carriedIntact.start_pair : frame.getD 0 0 = Config.s0 ∧ frame.getD 1 0 = Config.s1 := by
  have hlen := h.four_le
  exact (h.2 0 (by omega)).1.2 rfl

theorem carriedIntact.end_pair :
    frame.getD (frame.length - 2) 0 = Config.e0 ∧ frame.getD (frame.length - 1) 0 = Config.e1 := by
  have hlen := h.four_le
  have hpair := (h.2 (frame.length - 2) (by omega)).2.2 (by omega)
  rwa [show frame.length - 2 + 1 = frame.length - 1 by omega] at hpair

/-- Between the markers no byte forms either pair with the byte before it. -/
theorem carriedIntact.no_pair {k : Nat} (hlo : 2 ≤ k) (hhi : k + 1 < frame.length) :
    ¬(frame.getD (k - 1) 0 = Config.s0 ∧ frame.getD k 0 = Config.s1) ∧
      ¬(frame.getD (k - 1) 0 = Config.e0 ∧ frame.getD k 0 = Config.e1) := by
  obtain ⟨hstart, hend⟩ := h.2 (k - 1) (by omega)
  rw [Nat.sub_add_cancel (by omega)] at hstart hend
  rw [hstart, hend]
  omega

end CarriedIntact

/-! ### Reassembly -/

/-- The state after the first byte of a frame, the idle state `s` with START armed. -/
def State.startArmed (s : State) (frame : List Byte) (now : Nat) (rest : List Command) : State :=
  { s with prev := Config.s0, input := traceFrame (frame.drop 1) now ++ rest }

/-- The state after the first `k` bytes of a frame, `2 <= k`, that began on `s`: the bytes stand in the buffer from index 0, the
cursor is just above them, the rest of the frame is on the port. -/
def State.midFrame (s : State) (frame : List Byte) (now : Nat) (rest : List Command) (k : Nat) : State :=
  { s with prev := frame.getD (k - 1) 0, cursor := k, asm := true, buf := (s.writeBytes 0 (frame.take k)).buf,
           input := traceFrame (frame.drop k) now ++ rest }

/-- The state on which a frame's last byte is executed: all bytes before it have arrived, and it is taken from the port. -/
def State.atLastByte (s : State) (frame : List Byte) (now : Nat) (rest : List Command) : State :=
  { s.midFrame frame now rest (frame.length - 1) with input := rest }

section Reassembly

variable {s : State} {frame : List Byte} {now : Nat} {rest : List Command}

/-- The first byte is discarded, but arms START (41_frame_assembler R126). -/
theorem step_first_byte (hasm : s.asm = false) (hframe : carriedIntact frame) (hnow : now < 2 ^ s.params.clockW)
    (hinput : s.input = traceFrame frame now ++ rest) : step s = .next (s.startArmed frame now rest) := by
  have hlen := hframe.four_le
  rw [← frame.drop_zero, traceFrame_drop now (by omega), hframe.start_pair.1] at hinput
  exact (step_of_traceByte hinput hnow).trans (exec_byte_discard now hasm fun ⟨_, hb⟩ => absurd hb (by decide))

/-- The second byte begins the frame, without a warning (R120). -/
theorem step_startArmed (hasm : s.asm = false) (hframe : carriedIntact frame) (hnow : now < 2 ^ s.params.clockW) :
    step (s.startArmed frame now rest) = .next (s.midFrame frame now rest 2) := by
  have hlen := hframe.four_le
  obtain ⟨hs0, hs1⟩ := hframe.start_pair
  have hinput : (s.startArmed frame now rest).input = traceByte Config.s1 now :: (traceFrame (frame.drop 2) now ++ rest) := by
    rw [State.startArmed, traceFrame_drop now (by omega), hs1, List.cons_append]
  have hmarker : (s.writeBytes 0 (frame.take 2)).buf = (s.buf.set 0 Config.s0).set 1 Config.s1 := by
    rw [State.writeBytes_take_succ (by omega), State.writeBytes_take_succ (by omega), hs0, hs1]
    rfl
  refine (step_of_traceByte hinput hnow).trans ((exec_byte_start now ?prev).trans ?next)
  case prev => rfl
  case next =>
    rw [State.start_eq, State.midFrame, hmarker, hs1]
    simp [State.startArmed, hasm]

/-- A byte between the markers is appended (R124). -/
theorem step_midFrame (hframe : carriedIntact frame) (hcap : frame.length ≤ s.params.cap) (hnow : now < 2 ^ s.params.clockW)
    {k : Nat} (hlo : 2 ≤ k) (hhi : k + 1 < frame.length) :
    step (s.midFrame frame now rest k) = .next (s.midFrame frame now rest (k + 1)) := by
  have hk : k < frame.length := by omega
  obtain ⟨hstart, hend⟩ := hframe.no_pair hlo hhi
  have hinput : (s.midFrame frame now rest k).input =
      traceByte (frame.getD k 0) now :: (traceFrame (frame.drop (k + 1)) now ++ rest) := by
    rw [State.midFrame, traceFrame_drop now hk, List.cons_append]
  refine (step_of_traceByte hinput hnow).trans ((exec_byte_acc now ?asm hstart hend ?room).trans ?next)
  case asm => rfl
  case room => exact lt_of_lt_of_le hk hcap
  case next =>
    rw [State.midFrame, State.midFrame, State.writeBytes_take_succ hk]
    rfl

/-- Every byte but the last puts the next one into the buffer. -/
theorem runSteps_midFrame (hasm : s.asm = false) (hframe : carriedIntact frame) (hcap : frame.length ≤ s.params.cap)
    (hnow : now < 2 ^ s.params.clockW) (hinput : s.input = traceFrame frame now ++ rest) {k : Nat} (hlo : 2 ≤ k)
    (hhi : k < frame.length) : runSteps k s = .next (s.midFrame frame now rest k) := by
  induction k, hlo using Nat.le_induction with
  | base =>
    have hfirst : runSteps 1 s = .next (s.startArmed frame now rest) :=
      (runSteps_succ rfl).trans (step_first_byte hasm hframe hnow hinput)
    rw [runSteps_succ hfirst, step_startArmed hasm hframe hnow]
  | succ k hlo ih => rw [runSteps_succ (ih (by omega)), step_midFrame hframe hcap hnow hlo hhi]

/-! The last byte completes the frame, and VALIDATE runs on it in the same step (R121, 41_frame_assembler R130). -/

theorem State.atLastByte_cursor : (s.atLastByte frame now rest).cursor = frame.length - 1 := rfl

/-- END has room on both sides of the cursor. -/
theorem State.atLastByte_inside (hframe : carriedIntact frame) (hcap : frame.length ≤ s.params.cap) :
    1 ≤ (s.atLastByte frame now rest).cursor ∧
      (s.atLastByte frame now rest).cursor < (s.atLastByte frame now rest).params.cap := by
  have hlen := hframe.four_le
  rw [State.atLastByte_cursor]
  exact ⟨Nat.le_sub_one_of_lt (by omega), lt_of_lt_of_le (Nat.sub_one_lt_of_lt hlen) hcap⟩

theorem step_midFrame_last (hframe : carriedIntact frame) (hcap : frame.length ≤ s.params.cap) (hnow : now < 2 ^ s.params.clockW) :
    step (s.midFrame frame now rest (frame.length - 1)) =
      .next { (s.atLastByte frame now rest).completeFrame.validate now with prev := Config.e1 } := by
  have hlen := hframe.four_le
  obtain ⟨he0, he1⟩ := hframe.end_pair
  obtain ⟨hpos, hroom⟩ := State.atLastByte_inside (now := now) (rest := rest) hframe hcap
  have hinput : (s.midFrame frame now rest (frame.length - 1)).input = traceByte Config.e1 now :: rest := by
    rw [State.midFrame, traceFrame_drop now (by omega), he1, List.drop_eq_nil_of_le (by omega)]
    rfl
  exact (step_of_traceByte hinput hnow).trans (exec_byte_endFrame (s := s.atLastByte frame now rest) now rfl he0 hpos hroom)

/-- Only the elements that END and the bytes before it set differ from the idle state the frame began on. -/
theorem completeFrame_atLastByte (hcursor : s.cursor = 0) (hasm : s.asm = false) (hframe : carriedIntact frame) :
    (s.atLastByte frame now rest).completeFrame =
      { s with prev := Config.e0, buf := (s.atLastByte frame now rest).completeFrame.buf, frameLen := frame.length,
               input := rest } := by
  have hlen := hframe.four_le
  have hframeLen : frame.length - 1 + 1 = frame.length := Nat.sub_add_cancel (by omega)
  have hprev : frame.getD (frame.length - 1 - 1) 0 = Config.e0 := hframe.end_pair.1
  simp only [State.atLastByte, State.midFrame, State.completeFrame, State.write, hcursor, hasm, hframeLen, hprev]

theorem State.read_atLastByte_above {a : Nat} (ha : frame.length ≤ a) : (s.atLastByte frame now rest).read a = s.read a :=
  State.read_writeBytes_outside (.inr (by rw [List.length_take]; omega))

section Contents

variable (hwf : s.buf.wf s.params.cap = true) (hcap : frame.length ≤ s.params.cap)
include hwf hcap

theorem State.atLastByte_buf_wf : (s.atLastByte frame now rest).buf.wf s.params.cap = true :=
  State.writeBytes_wf _ 0 hwf (by rw [List.length_take]; omega)

/-- The bytes before the last stand in their places. -/
theorem State.read_atLastByte_below {i : Nat} (hi : i < frame.length - 1) :
    (s.atLastByte frame now rest).read i = frame.getD i 0 := by
  have hlength : (frame.take (frame.length - 1)).length = frame.length - 1 := List.length_take_of_le (Nat.sub_le _ _)
  have hholds := State.writeBytes_holdsFrom (i := 0) (bs := frame.take (frame.length - 1)) hwf (by omega)
  have hbyte := State.holdsFrom_iff.1 hholds i (by omega)
  rw [List.getElem_take, ← List.getD_eq_getElem frame 0 (by omega), Nat.zero_add] at hbyte
  exact hbyte

theorem read_completeFrame_atLastByte (hframe : carriedIntact frame) (a : Nat) :
    (s.atLastByte frame now rest).completeFrame.read a =
      if a = frame.length - 1 then Config.e1 else if a = frame.length - 2 then Config.e0
      else (s.atLastByte frame now rest).read a :=
  State.read_completeFrame (State.atLastByte_buf_wf hwf hcap) (State.atLastByte_inside hframe hcap).2 a

/-- The marker that END writes is the one the frame ends with. -/
theorem completeFrame_atLastByte_holds (hframe : carriedIntact frame) : (s.atLastByte frame now rest).completeFrame.holds frame := by
  obtain ⟨he0, he1⟩ := hframe.end_pair
  intro i hi
  rw [read_completeFrame_atLastByte hwf hcap hframe]
  by_cases hlast : i = frame.length - 1
  · rw [if_pos hlast, hlast, he1]
  · rw [if_neg hlast, State.read_atLastByte_below hwf hcap (by omega)]
    by_cases hnext : i = frame.length - 2
    · rw [if_pos hnext, hnext, he0]
    · rw [if_neg hnext]

theorem read_completeFrame_atLastByte_above (hframe : carriedIntact frame) {a : Nat} (ha : frame.length ≤ a) :
    (s.atLastByte frame now rest).completeFrame.read a = s.read a := by
  have hlen := hframe.four_le
  rw [read_completeFrame_atLastByte hwf hcap hframe, if_neg (by omega), if_neg (by omega), State.read_atLastByte_above ha]

end Contents

end Reassembly

/-- Settles O24: VALIDATE sees the state that END's writes leave. -/
theorem intactFramesAreReassembled : Obligations.IntactFramesAreReassembled := by
  intro s frame now rest h hasm hframe hcap hnow hinput
  have hlen := hframe.four_le
  obtain ⟨hpos, hroom⟩ := State.atLastByte_inside (now := now) (rest := rest) hframe hcap
  have hrun := runSteps_succ (runSteps_midFrame hasm hframe hcap hnow hinput (k := frame.length - 1) (by omega) (by omega))
  rw [Nat.sub_add_cancel (by omega), step_midFrame_last hframe hcap hnow] at hrun
  exact ⟨(s.atLastByte frame now rest).completeFrame, (s.atLastByte frame now rest).completeFrame.validate now,
    completeFrame_atLastByte (h.idle_cursor hasm) hasm hframe, completeFrame_atLastByte_holds h.buf_wf hcap hframe,
    fun _ => read_completeFrame_atLastByte_above h.buf_wf hcap hframe, exec_validate_completeFrame now hpos hroom, hrun⟩

end Sys2Proof.Machine
end

section
/-! PROOFS. The Frame Validator (42_frame_validator): the verdict check by check; that the assembler never completes a frame without
both markers (R148); and what a change of one byte does to the verdict of a frame that passes (R144, R149). -/

namespace Sys2Proof.Machine

/-! ### The verdict -/

section Verdict

variable {s : State}

theorem State.verdict_of_start_fails (hstart : ¬ s.startOk = true) : s.verdict = some .rejStart := by
  simp [State.verdict, hstart]

theorem State.verdict_of_end_fails (hstart : s.startOk = true) (hend : ¬ s.endOk = true) : s.verdict = some .rejEnd := by
  simp [State.verdict, hstart, hend]

theorem State.verdict_of_length_fails (hstart : s.startOk = true) (hend : s.endOk = true) (hlen : ¬ s.lengthOk = true) :
    s.verdict = some .rejLength := by
  simp [State.verdict, hstart, hend, hlen]

theorem State.verdict_of_checksum_fails (hstart : s.startOk = true) (hend : s.endOk = true) (hlen : s.lengthOk = true)
    (hck : ¬ s.checksumOk = true) : s.verdict = some .rejChecksum := by
  simp [State.verdict, hstart, hend, hlen, hck]

/-- Everything the verdict can be, each with the checks that give it (42_frame_validator R145). -/
theorem State.verdict_cases (s : State) :
    (¬ s.startOk = true ∧ s.verdict = some .rejStart) ∨
    (s.startOk = true ∧ ¬ s.endOk = true ∧ s.verdict = some .rejEnd) ∨
    (s.startOk = true ∧ s.endOk = true ∧ ¬ s.lengthOk = true ∧ s.verdict = some .rejLength) ∨
    (s.startOk = true ∧ s.endOk = true ∧ s.lengthOk = true ∧ ¬ s.checksumOk = true ∧ s.verdict = some .rejChecksum) ∨
    (s.startOk = true ∧ s.endOk = true ∧ s.lengthOk = true ∧ s.checksumOk = true ∧ s.verdict = none) := by
  by_cases hstart : s.startOk = true
  · by_cases hend : s.endOk = true
    · by_cases hlen : s.lengthOk = true
      · by_cases hck : s.checksumOk = true
        · exact .inr (.inr (.inr (.inr ⟨hstart, hend, hlen, hck, s.verdict_eq_none.2 ⟨hstart, hend, hlen, hck⟩⟩)))
        · exact .inr (.inr (.inr (.inl ⟨hstart, hend, hlen, hck, State.verdict_of_checksum_fails hstart hend hlen hck⟩)))
      · exact .inr (.inr (.inl ⟨hstart, hend, hlen, State.verdict_of_length_fails hstart hend hlen⟩))
    · exact .inr (.inl ⟨hstart, hend, State.verdict_of_end_fails hstart hend⟩)
  · exact .inl ⟨hstart, State.verdict_of_start_fails hstart⟩

/-- A frame that fails a check is dropped with that check's warning (42_frame_validator R147). -/
theorem exec_validate_of_rejected {code : WarnCode} (now : Nat) (hmin : 2 ≤ s.frameLen) (hcap : s.frameLen ≤ s.params.cap)
    (h : s.verdict = some code) : exec (.validate now) s = .next (s.warn code) := by
  rw [exec_validate, execValidate_eq_next now hmin hcap, State.validate, h]

end Verdict

/-! ### The start and end checks never fail on a completed frame (R148) -/

/-- The output has grown at its end by events none of which is REJ_START or REJ_END. -/
def EmitsNoMarkerReject (s t : State) : Prop :=
  ∃ evs, t.out = s.out ++ evs ∧ Event.warn .rejStart ∉ evs ∧ Event.warn .rejEnd ∉ evs

theorem EmitsNoMarkerReject.of_out_eq {s t : State} (h : t.out = s.out) : EmitsNoMarkerReject s t :=
  ⟨[], by rw [h, List.append_nil], List.not_mem_nil, List.not_mem_nil⟩

theorem EmitsNoMarkerReject.trans {s t u : State} (h : EmitsNoMarkerReject s t) (h' : EmitsNoMarkerReject t u) :
    EmitsNoMarkerReject s u := by
  obtain ⟨evs, hout, hstart, hend⟩ := h
  obtain ⟨evs', hout', hstart', hend'⟩ := h'
  refine ⟨evs ++ evs', by rw [hout', hout, List.append_assoc], ?_, ?_⟩
  · exact List.not_mem_append hstart hstart'
  · exact List.not_mem_append hend hend'

section Emits

variable (s : State) (now : Nat)

theorem State.warn_emitsNoMarkerReject {code : WarnCode} (hstart : code ≠ .rejStart) (hend : code ≠ .rejEnd) :
    EmitsNoMarkerReject s (s.warn code) :=
  ⟨[.warn code], rfl, by simp [hstart.symm], by simp [hend.symm]⟩

theorem State.decTagSeen_emitsNoMarkerReject : EmitsNoMarkerReject s (s.decTagSeen now) := by
  obtain ⟨reg', q', regWarns, qWarns, heq, hreg, hq⟩ := s.decTagSeen_frame now
  refine ⟨regWarns ++ qWarns, by rw [heq, List.append_assoc], ?_, ?_⟩ <;>
    rcases hreg with rfl | rfl <;> rcases hq with rfl | rfl <;> decide

theorem State.dispatch_emitsNoMarkerReject : EmitsNoMarkerReject s (s.dispatch now) := by
  rcases s.dispatch_cases now with ⟨-, heq⟩ | ⟨-, heq⟩ | ⟨-, -, heq⟩ <;> rw [heq]
  · exact s.decTagSeen_emitsNoMarkerReject now
  · exact .of_out_eq rfl
  · exact .of_out_eq rfl

/-- With both markers in place only the length range and the checksum are left to fail. -/
theorem State.validate_emitsNoMarkerReject (hstart : s.startOk = true) (hend : s.endOk = true) :
    EmitsNoMarkerReject s (s.validate now) := by
  rcases s.validate_cases now with ⟨code, hcode, heq⟩ | ⟨-, heq⟩ <;> rw [heq]
  · rcases s.verdict_cases with ⟨hbad, -⟩ | ⟨-, hbad, -⟩ | ⟨-, -, -, hv⟩ | ⟨-, -, -, -, hv⟩ | ⟨-, -, -, -, hv⟩
    · exact absurd hstart hbad
    · exact absurd hend hbad
    · cases hcode.symm.trans hv
      exact s.warn_emitsNoMarkerReject (by decide) (by decide)
    · cases hcode.symm.trans hv
      exact s.warn_emitsNoMarkerReject (by decide) (by decide)
    · cases hcode.symm.trans hv
  · exact s.dispatch_emitsNoMarkerReject now

theorem State.start_emitsNoMarkerReject : EmitsNoMarkerReject s s.start := by
  refine ⟨_, s.start_out, ?_, ?_⟩ <;> cases s.asm <;> decide

theorem State.drain_emitsNoMarkerReject : EmitsNoMarkerReject s s.drain :=
  ⟨s.q.map seenEvent, rfl, by simp [seenEvent], by simp [seenEvent]⟩

theorem State.sweep_emitsNoMarkerReject : EmitsNoMarkerReject s (s.sweep now) :=
  ⟨(s.reg.filter (stale s.params now)).map goneEvent, rfl, by simp [goneEvent], by simp [goneEvent]⟩

theorem State.check_emitsNoMarkerReject : EmitsNoMarkerReject s (s.check now) := by
  cases hdue : s.flushDue now with
  | true =>
    rw [State.check_of_due hdue]
    exact (s.drain_emitsNoMarkerReject.trans (s.drain.sweep_emitsNoMarkerReject now)).trans (.of_out_eq rfl)
  | false =>
    rw [State.check_of_not_due hdue]
    exact .of_out_eq rfl

end Emits

section CompletedFrame

variable {s : State}

/-- Once a frame has been completed the buffer begins with the start marker (10_state R36 (c)). -/
theorem Inv.startOk_of_frame (h : Inv s) (hframe : s.frameLen ≠ 0) : s.startOk = true := by
  rcases h.start_marker with ⟨-, hnone, -⟩ | hmarker
  · exact absurd hnone hframe
  · exact s.startOk_iff.2 hmarker

/-- END writes the end marker where the check reads it, the armed `E0` being at index 2 or above (R123). -/
theorem Inv.completeFrame_endOk (h : Inv s) (ha : s.asm = true) (hprev : s.prev = Config.e0) (hroom : s.cursor < s.params.cap) :
    s.completeFrame.endOk = true := by
  obtain ⟨hcur, -⟩ := h.end_armed ha hprev
  rw [s.completeFrame.endOk_iff, s.completeFrame_frameLen, State.read_completeFrame h.buf_wf hroom,
    State.read_completeFrame h.buf_wf hroom, if_neg (by omega), if_pos (by omega), if_pos (by omega)]
  exact ⟨rfl, rfl⟩

theorem Inv.endFrame_emitsNoMarkerReject (h : Inv s) (ha : s.asm = true) (hprev : s.prev = Config.e0)
    (hroom : s.cursor < s.params.cap) (now : Nat) : EmitsNoMarkerReject s (s.endFrame now) := by
  have hstart : s.completeFrame.startOk = true := (h.completeFrame ha hprev hroom).startOk_of_frame (Nat.succ_ne_zero _)
  have completed : EmitsNoMarkerReject s s.completeFrame := .of_out_eq s.completeFrame_out
  exact completed.trans (s.completeFrame.validate_emitsNoMarkerReject now hstart (h.completeFrame_endOk ha hprev hroom))

/-- Of the six paths only END validates a frame, and it does so on one that it has just completed. -/
theorem Inv.byte_emitsNoMarkerReject (h : Inv s) (b : Byte) (now : Nat) : EmitsNoMarkerReject s (s.byte b now) := by
  suffices path : EmitsNoMarkerReject s (s.runPath (s.selectPath b) b now) from path.trans (.of_out_eq rfl)
  rcases s.selectPath_cases b with ⟨hpath, -⟩ | ⟨-, ⟨hpath, ha, hprev, -, hroom⟩ | ⟨hpath, -⟩ | ⟨hpath, -⟩ | ⟨hpath, -⟩ |
    ⟨hpath, -⟩⟩ <;> rw [hpath]
  · exact s.start_emitsNoMarkerReject
  · exact h.endFrame_emitsNoMarkerReject ha hprev hroom now
  · exact ⟨[.warn .asmOverflow], s.endOvf_out, by decide, by decide⟩
  · exact ⟨[.warn .asmOverflow], s.accOvf_out b, by decide, by decide⟩
  · exact .of_out_eq (s.acc_out b)
  · exact .of_out_eq rfl

end CompletedFrame

/-- Settles O27, by the command the step takes. -/
theorem startAndEndChecksNeverFail : Obligations.StartAndEndChecksNeverFail := by
  intro s t h hstep
  change EmitsNoMarkerReject s t
  rcases step_cases s with ⟨-, heq⟩ | ⟨c, rest, -, heq⟩ <;> rw [heq] at hstep
  · cases hstep
    exact .of_out_eq rfl
  · have taken := h.withInput rest
    have same_out : EmitsNoMarkerReject s { s with input := rest } := .of_out_eq rfl
    refine same_out.trans ?_
    obtain rfl := eq_effect_of_exec hstep
    rcases decodeCommand_cases s.params.clockW c with ⟨-, hdec⟩ | ⟨-, hdec⟩ | ⟨-, hdec⟩ | ⟨-, hdec⟩ <;> rw [hdec]
    · exact .of_out_eq rfl
    · exact taken.byte_emitsNoMarkerReject c.data _
    · exact State.check_emitsNoMarkerReject _ _
    · exact .of_out_eq rfl

/-! ### VALIDATE, check by check -/

/-- Settles O26: the statement's tests on bytes are the model's four checks, in the order of the verdict. -/
theorem validateReportsTheFirstFailingCheck : Obligations.ValidateReportsTheFirstFailingCheck := by
  intro s now hmin hcap
  refine ⟨⟨s.validate now, execValidate_eq_next now hmin hcap⟩, ?_⟩
  have length_test : (s.dataLength < 3 ∨ s.frameLen + 3 ≤ s.dataLength) ↔ ¬ s.lengthOk = true := by
    rw [s.lengthOk_iff]
    omega
  simp only [← s.dataLength_eq, ← s.xorFold_eq_foldl, ← s.startOk_iff, ← s.endOk_iff, length_test, ne_eq, ← s.checksumOk_iff]
  rcases s.verdict_cases with ⟨hstart, hv⟩ | ⟨hstart, hend, hv⟩ | ⟨hstart, hend, hlen, hv⟩ | ⟨hstart, hend, hlen, hck, hv⟩ |
    ⟨hstart, hend, hlen, hck, hv⟩
  · rw [if_pos hstart]
    exact exec_validate_of_rejected now hmin hcap hv
  · rw [if_neg (not_not.2 hstart), if_pos hend]
    exact exec_validate_of_rejected now hmin hcap hv
  · rw [if_neg (not_not.2 hstart), if_neg (not_not.2 hend), if_pos hlen]
    exact exec_validate_of_rejected now hmin hcap hv
  · rw [if_neg (not_not.2 hstart), if_neg (not_not.2 hend), if_neg (not_not.2 hlen), if_pos hck]
    exact exec_validate_of_rejected now hmin hcap hv
  · rw [if_neg (not_not.2 hstart), if_neg (not_not.2 hend), if_neg (not_not.2 hlen), if_neg (not_not.2 hck)]
    exact exec_validate_of_passes now hmin hcap hv

/-- Settles O28: the checksum index is 2, below which nothing is folded, and the byte there is `0x00`, the high byte of the length
field itself (42_frame_validator R146). -/
theorem dataLengthFiveAlwaysPasses : Obligations.DataLengthFiveAlwaysPasses := by
  intro s now hmin hcap hs0 hs1 hhigh hlow he0 he1
  have hdl : s.dataLength = 5 := by
    rw [s.dataLength_eq, hhigh, hlow]
    rfl
  have hck : s.checksumOk = true := by
    rw [s.checksumOk_iff, hdl, hhigh]
    rfl
  have hlen : s.lengthOk = true := s.lengthOk_iff.2 (by omega)
  exact exec_validate_of_passes now (by omega) hcap
    (s.verdict_eq_none.2 ⟨s.startOk_iff.2 ⟨hs0, hs1⟩, s.endOk_iff.2 ⟨he0, he1⟩, hlen, hck⟩)

/-! ### The XOR fold -/

section Fold

variable {s t : State} {j n : Nat}

theorem State.xorFold_succ (hn : 2 ≤ n) : s.xorFold (n + 1) = s.xorFold n ^^^ s.read n := by
  have split_last : n + 1 - 2 = (n - 2) + 1 := by omega
  have last_index : 2 + (n - 2) = n := by omega
  simp [State.xorFold, xorBytes, split_last, List.range'_concat, last_index]

/-- Where the checksum byte stands above the first length byte, the check is that the fold with that byte in it is zero. -/
theorem State.checksumOk_iff_fold (hdl : 5 ≤ s.dataLength) : s.checksumOk = true ↔ s.xorFold (s.dataLength - 2) = 0 := by
  rw [s.checksumOk_iff, show s.dataLength - 2 = s.dataLength - 3 + 1 by omega, State.xorFold_succ (by omega)]
  exact BitVec.xor_eq_zero_iff.symm

theorem State.xorFold_congr (h : ∀ a, a < n → t.read a = s.read a) : t.xorFold n = s.xorFold n := by
  rw [State.xorFold, State.xorFold]
  refine congrArg xorBytes (List.map_congr_left fun a ha => h a ?_)
  rw [List.mem_range'_1] at ha
  omega

/-- A changed byte changes the fold by the bits in which it changed (R144). -/
theorem State.xorFold_of_changed (hj : 2 ≤ j) (hn : j < n) (hother : ∀ a, a < n → a ≠ j → t.read a = s.read a) :
    t.xorFold n = s.xorFold n ^^^ (t.read j ^^^ s.read j) := by
  induction n, hn using Nat.le_induction with
  | base =>
    have below : t.xorFold j = s.xorFold j := State.xorFold_congr fun a ha => hother a (by omega) (by omega)
    rw [State.xorFold_succ hj, State.xorFold_succ hj, below, BitVec.xor_comm (t.read j), BitVec.xor_assoc,
      ← BitVec.xor_assoc (s.read j), BitVec.xor_self, BitVec.zero_xor]
  | succ n hn ih =>
    have hn2 : 2 ≤ n := by omega
    rw [State.xorFold_succ hn2, State.xorFold_succ hn2, ih fun a ha => hother a (by omega), hother n (by omega) (by omega)]
    ac_rfl

end Fold

/-! ### One changed byte of a frame that passes (R149) -/

/-- `t` holds the frame of `s` with another byte at index `j`. -/
structure ChangedAt (s t : State) (j : Nat) : Prop where
  frameLen_eq : t.frameLen = s.frameLen
  differs : t.read j ≠ s.read j
  others : ∀ a, a < s.frameLen → a ≠ j → t.read a = s.read a

section OneChange

variable {s t : State} {j : Nat} (h : ChangedAt s t j)
include h

theorem ChangedAt.startOk (hj : 2 ≤ j) (hmin : 2 ≤ s.frameLen) (hstart : s.startOk = true) : t.startOk = true := by
  rw [t.startOk_iff, h.others 0 (by omega) (by omega), h.others 1 (by omega) (by omega)]
  exact s.startOk_iff.1 hstart

theorem ChangedAt.endOk (hj : j + 2 < s.frameLen) (hend : s.endOk = true) : t.endOk = true := by
  rw [t.endOk_iff, h.frameLen_eq, h.others _ (by omega) (by omega), h.others _ (by omega) (by omega)]
  exact s.endOk_iff.1 hend

theorem ChangedAt.dataLength_eq (hj : 4 ≤ j) (hmin : 4 ≤ s.frameLen) : t.dataLength = s.dataLength := by
  rw [t.dataLength_eq, s.dataLength_eq, h.others 2 (by omega) (by omega), h.others 3 (by omega) (by omega)]

theorem ChangedAt.xorFold {n : Nat} (hj : 2 ≤ j) (hn : j < n) (hin : n ≤ s.frameLen) :
    t.xorFold n = s.xorFold n ^^^ (t.read j ^^^ s.read j) :=
  State.xorFold_of_changed hj hn fun a ha => h.others a (by omega)

variable (hpass : s.verdict = none)
include hpass

theorem ChangedAt.verdict_startMarker (hj : j < 2) : t.verdict = some .rejStart := by
  obtain ⟨hstart, -⟩ := s.verdict_eq_none.1 hpass
  obtain ⟨hs0, hs1⟩ := s.startOk_iff.1 hstart
  refine State.verdict_of_start_fails fun hok => h.differs ?_
  obtain ⟨ht0, ht1⟩ := t.startOk_iff.1 hok
  obtain rfl | rfl : j = 0 ∨ j = 1 := by omega
  · rw [ht0, hs0]
  · rw [ht1, hs1]

theorem ChangedAt.verdict_endMarker (hmin : 4 ≤ s.frameLen) (hlo : s.frameLen ≤ j + 2) (hhi : j < s.frameLen) :
    t.verdict = some .rejEnd := by
  obtain ⟨hstart, hend, -⟩ := s.verdict_eq_none.1 hpass
  obtain ⟨he0, he1⟩ := s.endOk_iff.1 hend
  refine State.verdict_of_end_fails (h.startOk (by omega) (by omega) hstart) fun hok => h.differs ?_
  obtain ⟨ht0, ht1⟩ := t.endOk_iff.1 hok
  rw [h.frameLen_eq] at ht0 ht1
  obtain rfl | rfl : j = s.frameLen - 2 ∨ j = s.frameLen - 1 := by omega
  · rw [ht0, he0]
  · rw [ht1, he1]

/-- A changed length field that points outside the frame. -/
theorem ChangedAt.verdict_length (hlo : 2 ≤ j) (hhi : j + 2 < s.frameLen) (hlong : s.frameLen + 3 ≤ t.dataLength) :
    t.verdict = some .rejLength := by
  obtain ⟨hstart, hend, -⟩ := s.verdict_eq_none.1 hpass
  refine State.verdict_of_length_fails (h.startOk hlo (by omega) hstart) (h.endOk hhi hend) fun hok => ?_
  obtain ⟨-, hin⟩ := t.lengthOk_iff.1 hok
  rw [h.frameLen_eq] at hin
  omega

/-- A changed byte at or below the checksum of `t`, with the length field still pointing into the frame: the old fold over the same
range is not cancelled by the bits that changed. -/
theorem ChangedAt.verdict_checksum (hlo : 2 ≤ j) (hhi : j + 2 < s.frameLen) (hck : j + 3 ≤ t.dataLength)
    (hin : t.dataLength < s.frameLen + 3) (hfold : s.xorFold (t.dataLength - 2) ≠ t.read j ^^^ s.read j) :
    t.verdict = some .rejChecksum := by
  obtain ⟨hstart, hend, -⟩ := s.verdict_eq_none.1 hpass
  have hlen : t.lengthOk = true := t.lengthOk_iff.2 ⟨by omega, by rwa [h.frameLen_eq]⟩
  refine State.verdict_of_checksum_fails (h.startOk hlo (by omega) hstart) (h.endOk hhi hend) hlen fun hok => hfold ?_
  rw [State.checksumOk_iff_fold (by omega), h.xorFold hlo (by omega) (by omega)] at hok
  exact BitVec.xor_eq_zero_iff.1 hok

/-- A changed byte from the opcode to the checksum leaves the length field alone, and the old fold up to the checksum is zero. -/
theorem ChangedAt.verdict_covered (hlo : 4 ≤ j) (hhi : j + 2 < s.frameLen) (hck : j + 3 ≤ s.dataLength) :
    t.verdict = some .rejChecksum := by
  obtain ⟨-, -, hlen, hsum⟩ := s.verdict_eq_none.1 hpass
  obtain ⟨-, hin⟩ := s.lengthOk_iff.1 hlen
  have hdl := h.dataLength_eq hlo (by omega)
  refine h.verdict_checksum hpass (by omega) hhi (by omega) (by omega) ?_
  rw [hdl, (State.checksumOk_iff_fold (by omega)).1 hsum]
  exact fun hzero => h.differs (BitVec.xor_eq_zero_iff.1 hzero.symm)

end OneChange

/-- Settles O29. -/
theorem oneChangedByteIsRejected : Obligations.OneChangedByteIsRejected := by
  intro s s' now j hpass hcap hs' hlo hhi hck hdiff hother
  have hframeLen : s'.frameLen = s.frameLen := by rw [hs']
  have hparams : s'.params = s.params := by rw [hs']
  have changed : ChangedAt s s' j := ⟨hframeLen, hdiff, fun a _ hne => hother a hne⟩
  exact exec_validate_of_rejected now (by omega) (by rwa [hframeLen, hparams]) (changed.verdict_covered hpass hlo hhi hck)

/-! ### The bit flips of the example frame (R149) -/

/-- The tag-seen frame of the source's section 8, whose 232 bit flips R149 enumerates. -/
def exampleFrame : List Byte :=
  tagFrameBytes 0x3000 #v[0xE2, 0x00, 0x34, 0x11, 0xB8, 0x02, 0x01, 0x13, 0x83, 0x25, 0x85, 0x66] 0xFD6F 0x02 0x0DF732 0x2D

theorem exampleFrame_length : exampleFrame.length = 29 := tagFrameBytes_length _ _ _ _ _ _

/-- A byte with one bit set. -/
def bitMask (k : Nat) : Byte := BitVec.ofNat 8 (2 ^ k)

theorem bitMask_ne_zero : ∀ k < 8, bitMask k ≠ 0 := by decide

/-- The state `s` with a byte sequence in its buffer from index 0 and nothing else there. -/
def State.withBuffer (s : State) (bs : List Byte) : State := { s with buf := ({ s with buf := [] }.writeBytes 0 bs).buf }

@[simp] theorem State.withBuffer_frameLen (s : State) (bs : List Byte) : (s.withBuffer bs).frameLen = s.frameLen := rfl

theorem State.withBuffer_holds (s : State) (bs : List Byte) : (s.withBuffer bs).holds bs :=
  State.holds_iff_holdsFrom.2 (State.writeBytes_holdsFrom (s := { s with buf := [] }) (cap := bs.length) rfl (by omega))

/-- The fold over a held frame is the fold of its bytes from index 2 on. -/
theorem State.xorFold_of_holds {s : State} {bs : List Byte} {n : Nat} (h : s.holds bs) (hn : n ≤ bs.length) :
    s.xorFold n = xorBytes ((bs.take n).drop 2) := by
  rw [State.xorFold]
  refine congrArg xorBytes (List.ext_getElem (by simp; omega) fun k hk _ => ?_)
  simp only [List.length_map, List.length_range'] at hk
  have hbyte := h (2 + k) (by omega)
  rw [List.getD_eq_getElem _ _ (by omega)] at hbyte
  simpa using hbyte

/-- A bit flipped in the high byte of the length field adds at least 256 to it. -/
theorem exampleFrame_dataLength_flip_high : ∀ k < 8, 32 ≤ (0x00 ^^^ bitMask k).toNat * 256 + (0x1D : Byte).toNat := by decide

/-- Bits 5 to 7 of the low byte make the length field 61, 93 or 157 (R149). -/
theorem exampleFrame_dataLength_flip_low : ∀ k < 8, 5 ≤ k → 32 ≤ (0x1D ^^^ bitMask k : Byte).toNat := by decide

/-- Bits 0 to 4 of the low byte move the checksum to another index of the frame, up to which the fold does not cancel the flip. -/
theorem exampleFrame_fold_flip_low : ∀ k < 5,
    6 ≤ (0x1D ^^^ bitMask k : Byte).toNat ∧ (0x1D ^^^ bitMask k : Byte).toNat < 32 ∧
      xorBytes ((exampleFrame.take ((0x1D ^^^ bitMask k : Byte).toNat - 2)).drop 2) ≠ bitMask k := by decide

section ExampleFrame

variable {s t : State} {k : Nat} (hs : s.holds exampleFrame) (hlen : s.frameLen = 29)
include hs

/-- The length field of the example frame, byte by byte: 29. -/
theorem exampleFrame_lengthBytes : s.read 2 = 0x00 ∧ s.read 3 = 0x1D := ⟨hs 2 (by decide), hs 3 (by decide)⟩

theorem exampleFrame_dataLength : s.dataLength = 29 := by
  obtain ⟨hhigh, hlow⟩ := exampleFrame_lengthBytes hs
  rw [s.dataLength_eq, hhigh, hlow]
  rfl

include hlen

theorem exampleFrame_passes : s.verdict = none :=
  State.verdict_of_frame hs (by rw [tagPayload_length]; decide) (by rw [tagPayload_length, hlen])

theorem exampleFrame_flip_lengthHigh (h : ChangedAt s t 2) (hbit : t.read 2 = s.read 2 ^^^ bitMask k) (hk : k < 8) :
    t.verdict = some .rejLength := by
  obtain ⟨hhigh, hlow⟩ := exampleFrame_lengthBytes hs
  refine h.verdict_length (exampleFrame_passes hs hlen) (by omega) (by omega) ?_
  rw [t.dataLength_eq, h.others 3 (by omega) (by omega), hbit, hhigh, hlow, hlen]
  exact exampleFrame_dataLength_flip_high k hk

theorem exampleFrame_flip_lengthLow (h : ChangedAt s t 3) (hbit : t.read 3 = s.read 3 ^^^ bitMask k) (hk : k < 8) :
    t.verdict = some (if k < 5 then .rejChecksum else .rejLength) := by
  obtain ⟨hhigh, hlow⟩ := exampleFrame_lengthBytes hs
  have hdl : t.dataLength = (0x1D ^^^ bitMask k : Byte).toNat := by
    rw [t.dataLength_eq, h.others 2 (by omega) (by omega), hbit, hhigh, hlow]
    exact Nat.zero_add _
  by_cases hsmall : k < 5
  · obtain ⟨hlo, hhi, hfold⟩ := exampleFrame_fold_flip_low k hsmall
    rw [if_pos hsmall]
    refine h.verdict_checksum (exampleFrame_passes hs hlen) (by omega) (by omega) (by omega) (by omega) ?_
    have flipped : t.read 3 ^^^ s.read 3 = bitMask k := by
      rw [hbit, BitVec.xor_comm (s.read 3), BitVec.xor_assoc, BitVec.xor_self, BitVec.xor_zero]
    rwa [hdl, State.xorFold_of_holds hs (by rw [exampleFrame_length]; omega), flipped]
  · have hlong := exampleFrame_dataLength_flip_low k hk (by omega)
    rw [if_neg hsmall]
    exact h.verdict_length (exampleFrame_passes hs hlen) (by omega) (by omega) (by omega)

end ExampleFrame

/-- A frame with one bit flipped is the intact frame with that byte changed. -/
theorem changedAt_of_flip {t : State} {bs : List Byte} {i k : Nat} (hlen : t.frameLen = bs.length) (hi : i < bs.length) (hk : k < 8)
    (hread : ∀ a, a < bs.length → t.read a = bs.getD a 0 ^^^ (if a = i then bitMask k else 0)) :
    ChangedAt (t.withBuffer bs) t i ∧ t.read i = (t.withBuffer bs).read i ^^^ bitMask k := by
  have hbit : t.read i = (t.withBuffer bs).read i ^^^ bitMask k := by rw [hread i hi, if_pos rfl, t.withBuffer_holds bs i hi]
  refine ⟨⟨rfl, fun hsame => bitMask_ne_zero k hk ?_, fun a ha hne => ?_⟩, hbit⟩
  · exact (BitVec.xor_right_inj _).1 ((hbit.symm.trans hsame).trans BitVec.xor_zero.symm)
  · have hin : a < bs.length := hlen ▸ ha
    rw [hread a hin, if_neg hne, t.withBuffer_holds bs a hin]
    exact BitVec.xor_zero

/-- Settles O30, by the part of the frame in which the flipped bit lies. -/
theorem exampleFrameBitFlipsAreRejected : Obligations.ExampleFrameBitFlipsAreRejected := by
  intro t i k hi hk hlen hread
  have hlength := exampleFrame_length
  have hs := t.withBuffer_holds exampleFrame
  have hframeLen := (t.withBuffer_frameLen exampleFrame).trans hlen
  have hpass := exampleFrame_passes hs hframeLen
  have hflip : ∀ a, a < exampleFrame.length → t.read a = exampleFrame.getD a 0 ^^^ (if a = i then bitMask k else 0) :=
    fun a ha => hread a (hlength ▸ ha)
  obtain ⟨changed, hbit⟩ := changedAt_of_flip (hlen.trans hlength.symm) (hlength.symm ▸ hi) hk hflip
  obtain hstart | rfl | rfl | ⟨hlo, hhi⟩ | hend : i < 2 ∨ i = 2 ∨ i = 3 ∨ (4 ≤ i ∧ i < 27) ∨ 27 ≤ i := by omega
  · rw [if_pos hstart]
    exact changed.verdict_startMarker hpass hstart
  · exact exampleFrame_flip_lengthHigh hs hframeLen changed hbit hk
  · exact exampleFrame_flip_lengthLow hs hframeLen changed hbit hk
  · rw [if_neg (by omega), if_neg (by omega), if_neg (by omega), if_pos hhi]
    have hdl := exampleFrame_dataLength hs
    exact changed.verdict_covered hpass hlo (by omega) (by omega)
  · rw [if_neg (by omega), if_neg (by omega), if_neg (by omega), if_neg (by omega)]
    exact changed.verdict_endMarker hpass (by omega) (by omega) (by omega)

end Sys2Proof.Machine
end

section
/-! PROOFS. The Field Decoder (43_field_decoder): the decoder that the opcode byte selects, the report it builds from fixed offsets,
the RSSI transform, and that a tag-seen frame sent byte by byte does to the caches what OBSERVE and then ENQUEUE of its report do. -/

namespace Sys2Proof.Machine

/-! ### The meanings of the decoders -/

theorem exec_dispatch (now : Nat) (s : State) : exec (.dispatch now) s = .next (s.dispatch now) := rfl
theorem exec_stopAck (s : State) : exec .stopAck s = .next s.decStopAck := rfl
theorem exec_other (op : Byte) (s : State) : exec (.other op) s = .next s := rfl

/-- DISPATCH runs what the opcode byte decodes to (43_field_decoder R160, 30_encoding R80). -/
theorem exec_dispatch_eq_decodeOpcode (now : Nat) (s : State) :
    exec (.dispatch now) s = exec (decodeOpcode s.opcode now) s := by
  rcases s.dispatch_cases now with ⟨hop, heq⟩ | ⟨hop, heq⟩ | ⟨htag, hstop, heq⟩ <;> rw [exec_dispatch, heq]
  · rw [hop, decodeOpcode_tagSeen, exec_tagSeen]
  · rw [hop, decodeOpcode_stopAck, exec_stopAck]
  · rw [decodeOpcode_other now htag hstop, exec_other]

/-- Settles O31: the statement's table is `decodeOpcode`, on the byte at index 4. -/
theorem dispatchSelectsByTheOpcodeByte : Obligations.DispatchSelectsByTheOpcodeByte := fun s now =>
  ⟨exec_dispatch_eq_decodeOpcode now s, s.dispatch now, exec_dispatch now s⟩

/-- Settles O36. -/
theorem stopAckSetsTheFlags : Obligations.StopAckSetsTheFlags := exec_stopAck

/-- Settles O37. -/
theorem otherOpcodesChangeNothing : Obligations.OtherOpcodesChangeNothing := fun s op => exec_other op s

/-! ### The fields of the report (R162) -/

section Fields

variable (s : State)

theorem State.product_toNat : s.product.toNat = (s.read 5).toNat * 256 + (s.read 6).toNat := by
  have hvalue : s.memRead 5 2 = (s.read 5).toNat * 256 + (s.read 6).toNat := s.memRead_two 5
  rw [State.product, BitVec.toNat_ofNat, hvalue]
  omega

theorem State.rssiRaw_toNat : s.rssiRaw.toNat = (s.read 19).toNat * 256 + (s.read 20).toNat := by
  have hvalue : s.memRead 19 2 = (s.read 19).toNat * 256 + (s.read 20).toNat := s.memRead_two 19
  rw [State.rssiRaw, BitVec.toNat_ofNat, hvalue]
  omega

theorem State.freqKHz_toNat :
    s.freqKHz.toNat = (s.read 22).toNat * 65536 + (s.read 23).toNat * 256 + (s.read 24).toNat := by
  have hvalue : s.memRead 22 3 = (s.read 22).toNat * 65536 + (s.read 23).toNat * 256 + (s.read 24).toNat :=
    s.memRead_three 22
  rw [State.freqKHz, BitVec.toNat_ofNat, hvalue]
  omega

theorem State.tag_getElem (k : Fin 12) : s.tag[k] = s.read (7 + k) := by
  rw [State.tag, Fin.getElem_fin, Vector.getElem_ofFn]

end Fields

/-- Settles O32. -/
theorem tagSeenBuildsObservesAndQueuesTheReport : Obligations.TagSeenBuildsObservesAndQueuesTheReport := fun s now =>
  ⟨s.report, s.observe s.report.tag s.report.ant now, s.decTagSeen now, rfl, s.product_toNat, s.tag_getElem, s.rssiRaw_toNat,
    rfl, s.freqKHz_toNat, rfl, rfl, exec_observe _ _ now s, exec_enqueue _ _, exec_tagSeen now s⟩

/-! ### The RSSI transform (R163, R164) -/

theorem rssiMag_toNat (raw : BitVec 16) : (rssiMag raw).toNat = (0xFFFF - raw.toNat + 1) % 2 ^ 16 := by
  rw [rssiMag, BitVec.toNat_add, BitVec.toNat_not]
  rfl

/-- The source's percentage of the level `-mag / 10` dBm, between -80 and -30 dBm, in closed form. -/
theorem strengthPercent_eq (raw : BitVec 16) : strengthPercent raw = 160 - ((rssiMag raw).toNat : ℚ) / 5 := by
  rw [strengthPercent, rssiDbm, Config.pMax, Config.pMin]
  push_cast
  ring

theorem strength5_cast (raw : BitVec 16) : (strength5 raw : ℚ) = 5 * strengthPercent raw := by
  rw [strengthPercent_eq, strength5]
  push_cast
  ring

/-- Settles O34. -/
theorem strengthFollowsTheSourceFormula : Obligations.StrengthFollowsTheSourceFormula := by
  intro raw
  have hmag := (rssiMag raw).isLt
  refine ⟨rssiMag_toNat raw, rfl, ?source, strengthPercent_eq raw, strength5_cast raw, rfl, ?low, ?high⟩
  case source =>
    rw [strengthPercent, Config.pMax, Config.pMin]
    push_cast
    rfl
  case low => rw [strength5]; omega
  case high => rw [strength5]; omega

/-- A row of R164's table follows from its magnitude. -/
theorem rssiRow_of_mag {raw : BitVec 16} {mag : Nat} {dbm percent : ℚ} {s5 : Int} (hmag : (rssiMag raw).toNat = mag)
    (hdbm : -(mag : ℚ) / 10 = dbm) (hs5 : 800 - (mag : Int) = s5) (hpercent : 160 - (mag : ℚ) / 5 = percent) :
    (rssiMag raw).toNat = mag ∧ rssiDbm raw = dbm ∧ strength5 raw = s5 ∧ strengthPercent raw = percent := by
  subst hmag
  exact ⟨rfl, hdbm, hs5, (strengthPercent_eq raw).trans hpercent⟩

/-- Settles O35. -/
theorem rssiCornerCases : Obligations.RssiCornerCases := by
  refine ⟨fun raw htop hne => ?topClear, ?rows⟩
  case topClear =>
    have hpos : raw.toNat ≠ 0 := fun hzero => hne (BitVec.eq_of_toNat_eq hzero)
    rw [rssiMag_toNat]
    omega
  case rows =>
    simp only [List.forall_mem_cons]
    refine ⟨?_, ?_, ?_, ?_, ?_, ?_, ?_, ?_, ?_, List.forall_mem_nil _⟩ <;>
      exact rssiRow_of_mag rfl (by norm_num) (by norm_num) (by norm_num)

/-! ### What the caches read -/

section Caches

variable {s t : State}

/-- What OBSERVE does to the registry and the output depends on the registry and the parameters alone. -/
theorem State.observe_congr (tag : Tag) (ant : Byte) (now : Nat) (hparams : t.params = s.params) (hreg : t.reg = s.reg) :
    ∃ reg' evs, s.observe tag ant now = { s with reg := reg', out := s.out ++ evs } ∧
      t.observe tag ant now = { t with reg := reg', out := t.out ++ evs } := by
  unfold State.observe
  cases hscan : refreshEntry tag ant now s.reg with
  | some reg' => exact ⟨reg', [], by simp, by simp [hreg, hscan]⟩
  | none =>
    by_cases hroom : s.reg.length < s.params.regCap
    · exact ⟨s.reg ++ [⟨tag, ant, now⟩], [], by simp [hroom], by simp [hparams, hreg, hscan, hroom]⟩
    · exact ⟨s.reg, [.warn .regFull], by simp [hroom, State.warn, State.emit, State.emitAll],
        by simp [hparams, hreg, hscan, hroom, State.warn, State.emit, State.emitAll]⟩

/-- What ENQUEUE does to the queue and the output depends on the queue and the parameters alone. -/
theorem State.enqueue_congr (r : Report) (hparams : t.params = s.params) (hq : t.q = s.q) :
    ∃ q' evs, s.enqueue r = { s with q := q', out := s.out ++ evs } ∧
      t.enqueue r = { t with q := q', out := t.out ++ evs } := by
  unfold State.enqueue
  cases hscan : replaceReport r s.q with
  | some q' => exact ⟨q', [], by simp, by simp [hq, hscan]⟩
  | none =>
    by_cases hroom : s.q.length < s.params.qCap
    · exact ⟨s.q ++ [r], [], by simp [hroom], by simp [hparams, hq, hscan, hroom]⟩
    · exact ⟨s.q, [.warn .queueFull], by simp [hroom, State.warn, State.emit, State.emitAll],
        by simp [hparams, hq, hscan, hroom, State.warn, State.emit, State.emitAll]⟩

/-- OBSERVE and then ENQUEUE change the caches and the output, and read nothing but the caches and the parameters. -/
theorem State.observe_enqueue_congr (tag : Tag) (ant : Byte) (now : Nat) (r : Report) (hparams : t.params = s.params)
    (hreg : t.reg = s.reg) (hq : t.q = s.q) :
    ∃ reg' q' evs, (s.observe tag ant now).enqueue r = { s with reg := reg', q := q', out := s.out ++ evs } ∧
      (t.observe tag ant now).enqueue r = { t with reg := reg', q := q', out := t.out ++ evs } := by
  obtain ⟨reg', evs, hs, ht⟩ := State.observe_congr tag ant now hparams hreg
  rw [hs, ht]
  obtain ⟨q', evs', hs', ht'⟩ := State.enqueue_congr (s := { s with reg := reg', out := s.out ++ evs })
    (t := { t with reg := reg', out := t.out ++ evs }) r hparams hq
  exact ⟨reg', q', evs ++ evs', by rw [hs', ← List.append_assoc], by rw [ht', ← List.append_assoc]⟩

end Caches

/-! ### The frame's length (R161) -/

/-- The report is read from the buffer alone, and the caches do not read the frame's length. -/
theorem State.decTagSeen_withFrameLen (s : State) (n now : Nat) :
    { s with frameLen := n }.decTagSeen now = { s.decTagSeen now with frameLen := n } := by
  have same_report : { s with frameLen := n }.report = s.report := rfl
  obtain ⟨reg', q', evs, hs, hn⟩ := State.observe_enqueue_congr (s := s) (t := { s with frameLen := n })
    s.report.tag s.report.ant now s.report rfl rfl rfl
  rw [State.decTagSeen, State.decTagSeen, same_report, hs, hn]

/-- Settles O38. -/
theorem decodersIgnoreTheFrameLength : Obligations.DecodersIgnoreTheFrameLength := by
  intro s t n now
  refine ⟨fun h => ?tagSeen, fun h => ?stopAck⟩
  case tagSeen =>
    obtain rfl := eq_effect_of_exec h
    rw [exec_tagSeen, s.decTagSeen_withFrameLen]
    rfl
  case stopAck =>
    obtain rfl := eq_effect_of_exec h
    rfl

/-! ### A tag-seen frame, end to end (R162, 40_host_step R111) -/

/-- Settles O25: the frame is reassembled byte for byte, VALIDATE hands it to TAG_SEEN with its fields unchanged, and the caches do
not read what the reassembly changed. -/
theorem tagFrameIsObservedAndQueued : Obligations.TagFrameIsObservedAndQueued := by
  intro s product tag rssi ant khz phase now rest h hasm hnow hframe hinput
  have hlength := tagFrameBytes_length product tag rssi ant khz phase
  have hcap : (tagFrameBytes product tag rssi ant khz phase).length ≤ s.params.cap := hlength ▸ s.params.cap_min
  obtain ⟨t, u, ht, hholds, -, hvalidate, hrun⟩ := intactFramesAreReassembled s _ now rest h hasm hframe hcap hnow hinput
  rw [hlength] at ht hrun
  obtain ⟨-, htagSeen, hreport⟩ :=
    tagFrameFieldsSurviveEncoding t product tag rssi ant khz phase now hholds (by rw [ht])
  have decoded : u = (t.observe t.report.tag t.report.ant now).enqueue t.report :=
    Host.Outcome.next.inj (hvalidate.symm.trans (htagSeen.trans (exec_tagSeen now t)))
  obtain ⟨reg', q', evs, hs, ht'⟩ := State.observe_enqueue_congr (s := s) (t := t) tag ant now
    ⟨0x83, product, tag, rssi, ant, khz, phase, strength5 rssi⟩ (by rw [ht]) (by rw [ht]) (by rw [ht])
  rw [hreport, ht'] at decoded
  refine ⟨_, _, _, exec_observe tag ant now s, exec_enqueue _ _, hrun, ?_⟩
  rw [hs, decoded, ht]

end Sys2Proof.Machine
end

section
/-! PROOFS. What leaves the block (43_field_decoder R171): of a queued report only the tag, the antenna and the strength. Two states
that differ only in what else their queues hold take the same paths, and every operation of a step keeps them so. -/

namespace Sys2Proof.Machine

/-! ### Queues that publish alike -/

theorem publishedPart_eq_iff {a b : Report} :
    publishedPart a = publishedPart b ↔ a.tag = b.tag ∧ a.ant = b.ant ∧ a.strength5 = b.strength5 := by
  simp [publishedPart]

/-- DRAIN's event is a function of the published part. -/
theorem map_seenEvent_congr {l l' : List Report} (h : l'.map publishedPart = l.map publishedPart) :
    l'.map seenEvent = l.map seenEvent := by
  have factors (q : List Report) : q.map seenEvent = (q.map publishedPart).map fun p => .pub .seen p.1 p.2.1 p.2.2 := by
    rw [List.map_map]
    rfl
  rw [factors, factors, h]

/-- ENQUEUE's scan compares published fields only, so it finds or misses the key at the same place. -/
theorem replaceReport_congr {l l' : List Report} (r : Report) (h : l'.map publishedPart = l.map publishedPart) :
    (replaceReport r l').map (List.map publishedPart) = (replaceReport r l).map (List.map publishedPart) := by
  induction l generalizing l' with
  | nil =>
    obtain rfl := List.map_eq_nil_iff.1 h
    rfl
  | cons e es ih =>
    cases l' with
    | nil => cases h
    | cons e' es' =>
      obtain ⟨hhead, htail⟩ := List.cons.inj h
      obtain ⟨htag, hant, -⟩ := publishedPart_eq_iff.1 hhead
      rw [replaceReport, replaceReport, htag, hant]
      by_cases hkey : e.tag = r.tag ∧ e.ant = r.ant
      · simp only [if_pos hkey, Option.map_some, List.map_cons, htail]
      · have push (x : Report) (o : Option (List Report)) : (o.map (x :: ·)).map (List.map publishedPart) =
            (o.map (List.map publishedPart)).map (publishedPart x :: ·) := by
          cases o <;> rfl
        rw [if_neg hkey, if_neg hkey, push, push, hhead, ih htail]

/-! ### States that publish alike -/

section Alike

variable {s s' : State}

theorem publishesAlike_iff :
    PublishesAlike s s' ↔ ∃ q', q'.map publishedPart = s.q.map publishedPart ∧ s' = { s with q := q' } := by
  constructor
  · rintro ⟨hs', hq⟩
    exact ⟨s'.q, hq, hs'⟩
  · rintro ⟨q', hq, rfl⟩
    exact ⟨rfl, hq⟩

theorem PublishesAlike.of_queue {q' : List Report} (hq : q'.map publishedPart = s.q.map publishedPart) :
    PublishesAlike s { s with q := q' } := ⟨rfl, hq⟩

theorem PublishesAlike.refl (s : State) : PublishesAlike s s := ⟨rfl, rfl⟩

/-- What does not read the queue is the same of both states. -/
theorem PublishesAlike.eq_of_ignores (h : PublishesAlike s s') {α : Type} {f : State → α}
    (hf : ∀ (u : State) (q' : List Report), f { u with q := q' } = f u) : f s' = f s := by
  rw [h.1, hf]

/-- An operation that neither reads nor changes the queue keeps the states alike. -/
theorem PublishesAlike.of_commutes (h : PublishesAlike s s') {f : State → State}
    (hf : ∀ (u : State) (q' : List Report), f { u with q := q' } = { f u with q := q' }) : PublishesAlike (f s) (f s') := by
  obtain ⟨q', hq, rfl⟩ := publishesAlike_iff.1 h
  have own_queue : f s = { f s with q := s.q } := hf s s.q
  have same_queue : (f s).q = s.q := by rw [own_queue]
  rw [hf s q']
  exact .of_queue (hq.trans (congrArg _ same_queue.symm))

theorem PublishesAlike.length_q (h : PublishesAlike s s') : s'.q.length = s.q.length := by
  rw [← List.length_map publishedPart, h.2, List.length_map]

/-! ### The operations of a step -/

variable (h : PublishesAlike s s')
include h

theorem PublishesAlike.warn (code : WarnCode) : PublishesAlike (s.warn code) (s'.warn code) :=
  h.of_commutes (f := (State.warn · code)) fun _ _ => rfl

theorem PublishesAlike.observe (tag : Tag) (ant : Byte) (now : Nat) :
    PublishesAlike (s.observe tag ant now) (s'.observe tag ant now) := by
  refine h.of_commutes (f := State.observe tag ant now) fun u q' => ?_
  obtain ⟨reg', evs, hu, hq⟩ := State.observe_congr (s := u) (t := { u with q := q' }) tag ant now rfl rfl
  rw [hu, hq]

/-- The two scans find the key both or neither, and the queues are equally long. -/
theorem PublishesAlike.enqueue (r : Report) : PublishesAlike (s.enqueue r) (s'.enqueue r) := by
  have hscan := replaceReport_congr r h.2
  have hlength := h.length_q
  obtain ⟨q', hq, rfl⟩ := publishesAlike_iff.1 h
  unfold State.enqueue
  cases hs : replaceReport r s.q with
  | some l =>
    cases hs' : replaceReport r q' with
    | some l' =>
      rw [hs, hs'] at hscan
      exact .of_queue (s := { s with q := l }) (Option.some.inj hscan)
    | none => rw [hs, hs'] at hscan; cases hscan
  | none =>
    cases hs' : replaceReport r q' with
    | some l' => rw [hs, hs'] at hscan; cases hscan
    | none =>
      by_cases hroom : s.q.length < s.params.qCap
      · simp only [hroom, hlength, if_true]
        exact .of_queue (s := { s with q := s.q ++ [r] }) (by rw [List.map_append, List.map_append, hq])
      · simp only [hroom, hlength, if_false]
        exact h.warn .queueFull

theorem PublishesAlike.decTagSeen (now : Nat) : PublishesAlike (s.decTagSeen now) (s'.decTagSeen now) := by
  have same_report : s'.report = s.report := h.eq_of_ignores fun _ _ => rfl
  rw [State.decTagSeen, State.decTagSeen, same_report]
  exact (h.observe _ _ now).enqueue s.report

/-- Both states hold the same opcode byte, so they select the same decoder. -/
theorem PublishesAlike.dispatch (now : Nat) : PublishesAlike (s.dispatch now) (s'.dispatch now) := by
  have same_opcode : s'.opcode = s.opcode := h.eq_of_ignores fun _ _ => rfl
  unfold State.dispatch
  rw [same_opcode]
  split
  · exact h.decTagSeen now
  · split
    · exact h.of_commutes fun _ _ => rfl
    · exact h

/-- Both states hold the same frame, so VALIDATE gives both the same verdict. -/
theorem PublishesAlike.validate (now : Nat) : PublishesAlike (s.validate now) (s'.validate now) := by
  have same_verdict : s'.verdict = s.verdict := h.eq_of_ignores fun _ _ => rfl
  unfold State.validate
  rw [same_verdict]
  cases s.verdict with
  | some code => exact h.warn code
  | none => exact h.dispatch now

theorem PublishesAlike.start : PublishesAlike s.start s'.start :=
  h.of_commutes fun u q' => by rw [State.start_eq, State.start_eq]

theorem PublishesAlike.runPath (path : AssemblerPath) (b : Byte) (now : Nat) :
    PublishesAlike (s.runPath path b now) (s'.runPath path b now) := by
  cases path with
  | start => exact h.start
  | endFrame => exact (h.of_commutes (f := State.completeFrame) fun _ _ => rfl).validate now
  | endOvf => exact h.of_commutes fun _ _ => rfl
  | accOvf => exact h.of_commutes (f := State.accOvf b) fun _ _ => rfl
  | acc => exact h.of_commutes (f := State.acc b) fun _ _ => rfl
  | discard => exact h

theorem PublishesAlike.byte (b : Byte) (now : Nat) : PublishesAlike (s.byte b now) (s'.byte b now) := by
  have same_path : s'.selectPath b = s.selectPath b := h.eq_of_ignores fun _ _ => rfl
  rw [State.byte, State.byte, same_path]
  exact (h.runPath (s.selectPath b) b now).of_commutes (f := fun u => { u with prev := b }) fun _ _ => rfl

/-- DRAIN publishes the same events of both queues and leaves both empty. -/
theorem PublishesAlike.drain : s'.drain = s.drain := by
  obtain ⟨q', hq, rfl⟩ := publishesAlike_iff.1 h
  rw [State.drain, State.drain, map_seenEvent_congr hq]
  rfl

theorem PublishesAlike.check (now : Nat) : PublishesAlike (s.check now) (s'.check now) := by
  have same_due : s'.flushDue now = s.flushDue now := h.eq_of_ignores (f := (State.flushDue · now)) fun _ _ => rfl
  unfold State.check
  rw [same_due, h.drain]
  split
  · exact .refl _
  · exact h

theorem PublishesAlike.resetCommand : s'.resetCommand = s.resetCommand :=
  h.eq_of_ignores fun _ _ => rfl

/-- Whatever a host command answers in one of the states, it answers alike in the other. -/
theorem PublishesAlike.exec_command {t : State} {i : Instr} (hi : i.format = .hostCmd) (hexec : exec i s = .next t) :
    ∃ t', exec i s' = .next t' ∧ PublishesAlike t t' := by
  cases i with
  | reset =>
    obtain rfl := eq_effect_of_exec hexec
    exact ⟨s'.resetCommand, exec_reset s', h.resetCommand ▸ .refl _⟩
  | byte b now =>
    have same_inside : s'.pathInBuffer (s'.selectPath b) = s.pathInBuffer (s.selectPath b) :=
      h.eq_of_ignores (f := fun u => u.pathInBuffer (u.selectPath b)) fun _ _ => rfl
    obtain ⟨inside, rfl⟩ := onBuffer_eq_next.1 hexec
    exact ⟨s'.byte b now, onBuffer_eq_next.2 ⟨same_inside.trans inside, rfl⟩, h.byte b now⟩
  | check now =>
    obtain rfl := eq_effect_of_exec hexec
    exact ⟨s'.check now, exec_check now s', h.check now⟩
  | reservedOp3 => cases hexec
  | _ => nomatch hi

end Alike

/-- Settles O50: both states have the same command at the head of the port, and the output is no part of the queue. -/
theorem unpublishedFieldsNeverReachTheOutput : Obligations.UnpublishedFieldsNeverReachTheOutput := by
  intro s s' t h hstep
  suffices alike : ∃ t', step s' = .next t' ∧ PublishesAlike t t' by
    obtain ⟨t', hstep', ht⟩ := alike
    exact ⟨t', hstep', ht, ht.eq_of_ignores fun _ _ => rfl⟩
  have same_input : s'.input = s.input := h.eq_of_ignores fun _ _ => rfl
  have same_clockW : s'.params.clockW = s.params.clockW := h.eq_of_ignores (f := (·.params.clockW)) fun _ _ => rfl
  rcases step_cases s with ⟨hinput, heq⟩ | ⟨c, rest, hinput, heq⟩ <;> rw [heq] at hstep
  · cases hstep
    exact ⟨s', step_of_empty (same_input.trans hinput), h⟩
  · have taken := h.of_commutes (f := fun u => { u with input := rest }) fun _ _ => rfl
    rw [step_of_input (same_input.trans hinput), same_clockW]
    exact taken.exec_command (decodeCommand_wf _ c).2 hstep

end Sys2Proof.Machine
end

section
/-! PROOFS. The Tag Registry (44_tag_registry): what OBSERVE does to a known and to a new key, which entries SWEEP evicts, and that no
other instruction but RESET and the CHECK that sweeps takes a key away (R195, R197). -/

namespace Sys2Proof.Machine

/-! ### OBSERVE -/

theorem RegEntry.key_ne_iff {e : RegEntry} {tag : Tag} {ant : Byte} : e.key ≠ (tag, ant) ↔ ¬(e.tag = tag ∧ e.ant = ant) := by
  rw [RegEntry.key, ne_eq, Prod.mk.injEq]

section Observe

variable {s : State} {tag : Tag} {ant : Byte} (now : Nat)

/-- The scan stops at the first entry with the key (R190), so a second one, which no reachable registry has, stays as it is. -/
theorem State.observe_of_known {pre post : List RegEntry} {e : RegEntry} (hreg : s.reg = pre ++ e :: post)
    (hfirst : ∀ x ∈ pre, x.key ≠ (tag, ant)) (hkey : e.key = (tag, ant)) :
    s.observe tag ant now = { s with reg := pre ++ { e with lastSeen := now } :: post } := by
  rw [State.observe, refreshEntry_eq_some.2 ⟨pre, e, post, hreg, hfirst, hkey, rfl⟩]

theorem State.observe_of_new (hnew : ∀ x ∈ s.reg, x.key ≠ (tag, ant)) :
    s.observe tag ant now =
      if s.reg.length < s.params.regCap then { s with reg := s.reg ++ [⟨tag, ant, now⟩] } else s.warn .regFull := by
  rw [State.observe, refreshEntry_eq_none.2 hnew]

end Observe

/-- Settles O40: the entry named is the one the scan finds. -/
theorem observeRefreshesAKnownKey : Obligations.ObserveRefreshesAKnownKey := by
  intro s pre post e now hreg hfirst
  rw [exec_observe, State.observe_of_known now hreg (fun x hx => RegEntry.key_ne_iff.2 (hfirst x hx)) rfl]

/-- Settles O41. -/
theorem observeInsertsANewKey : Obligations.ObserveInsertsANewKey := by
  intro s tag ant now hnew hroom
  rw [exec_observe, State.observe_of_new now fun x hx => RegEntry.key_ne_iff.2 (hnew x hx), if_pos hroom]

/-- Settles O42. -/
theorem observeRejectsANewKeyWhenFull : Obligations.ObserveRejectsANewKeyWhenFull := by
  intro s tag ant now hnew hfull
  rw [exec_observe, State.observe_of_new now fun x hx => RegEntry.key_ne_iff.2 (hnew x hx), if_neg hfull.not_gt]
  rfl

/-! ### SWEEP -/

/-- Staleness in the integers of 40_host_step R105. -/
theorem stale_eq_decide (p : Params) (now : Nat) (e : RegEntry) :
    stale p now e = decide ((p.timeout : Int) < ((now : Int) - e.lastSeen) % ((2 ^ p.clockW : Nat) : Int)) := by
  rw [stale, ← age_cast, decide_eq_decide, Int.ofNat_lt]

theorem not_stale_eq_decide (p : Params) (now : Nat) (e : RegEntry) :
    (!stale p now e) = decide (((now : Int) - e.lastSeen) % ((2 ^ p.clockW : Nat) : Int) ≤ p.timeout) := by
  rw [stale_eq_decide, ← decide_not, decide_eq_decide, Int.not_lt]

/-- Settles O43: SWEEP's two filters are the integer comparison and its negation. -/
theorem sweepEvictsExactlyTheStaleEntries : Obligations.SweepEvictsExactlyTheStaleEntries := by
  intro s now
  refine ⟨s.sweep now, exec_sweep now s, ?_⟩
  simp only [← stale_eq_decide, ← not_stale_eq_decide]
  rfl

/-! ### No other instruction evicts -/

/-- The registry's keys in `s` are still the first ones of the registry in `t`, each in its place. -/
def KeepsKeys (s t : State) : Prop := s.reg.map RegEntry.key <+: t.reg.map RegEntry.key

theorem KeepsKeys.of_keys_eq {s t : State} (h : t.reg.map RegEntry.key = s.reg.map RegEntry.key) : KeepsKeys s t := by
  rw [KeepsKeys, h]

theorem KeepsKeys.of_reg_eq {s t : State} (h : t.reg = s.reg) : KeepsKeys s t := .of_keys_eq (congrArg _ h)

theorem KeepsKeys.trans {s t u : State} (h : KeepsKeys s t) (h' : KeepsKeys t u) : KeepsKeys s u := List.IsPrefix.trans h h'

section KeysKept

variable (s : State) (b : Byte) (now : Nat)

theorem State.observe_keepsKeys (tag : Tag) (ant : Byte) : KeepsKeys s (s.observe tag ant now) := by
  rcases s.observe_cases tag ant now with ⟨pre, e, post, hreg, -, -, heq⟩ | ⟨-, -, heq⟩ | ⟨-, -, heq⟩ <;> rw [heq]
  · exact .of_keys_eq (by simp [hreg, RegEntry.key])
  · exact (List.prefix_append s.reg _).map RegEntry.key
  · exact .of_reg_eq (s.warn_reg .regFull)

theorem State.decTagSeen_keepsKeys : KeepsKeys s (s.decTagSeen now) :=
  (s.observe_keepsKeys now _ _).trans (.of_reg_eq (s.decTagSeen_reg now))

theorem State.dispatch_keepsKeys : KeepsKeys s (s.dispatch now) := by
  rcases s.dispatch_cases now with ⟨-, heq⟩ | ⟨-, heq⟩ | ⟨-, -, heq⟩ <;> rw [heq]
  · exact s.decTagSeen_keepsKeys now
  · exact .of_reg_eq s.decStopAck_reg
  · exact .of_reg_eq rfl

theorem State.validate_keepsKeys : KeepsKeys s (s.validate now) := by
  rcases s.validate_cases now with ⟨code, -, heq⟩ | ⟨-, heq⟩ <;> rw [heq]
  · exact .of_reg_eq (s.warn_reg code)
  · exact s.dispatch_keepsKeys now

theorem State.endFrame_keepsKeys : KeepsKeys s (s.endFrame now) :=
  (KeepsKeys.of_reg_eq s.completeFrame_reg).trans (s.completeFrame.validate_keepsKeys now)

theorem State.runPath_keepsKeys (path : AssemblerPath) : KeepsKeys s (s.runPath path b now) := by
  cases path with
  | start => exact .of_reg_eq s.start_reg
  | endFrame => exact s.endFrame_keepsKeys now
  | endOvf => exact .of_reg_eq s.endOvf_reg
  | accOvf => exact .of_reg_eq (s.accOvf_reg b)
  | acc => exact .of_reg_eq (s.acc_reg b)
  | discard => exact .of_reg_eq rfl

theorem State.byte_keepsKeys : KeepsKeys s (s.byte b now) := (s.runPath_keepsKeys b now (s.selectPath b)).trans (.of_reg_eq rfl)

end KeysKept

/-- The three instructions left out are those that can shorten the registry. -/
theorem effect_keepsKeys {i : Instr} (s : State) (hreset : i ≠ .reset) (hcheck : ∀ now, i ≠ .check now)
    (hsweep : ∀ now, i ≠ .sweep now) : KeepsKeys s (effect i s) := by
  cases i with
  | reset => exact absurd rfl hreset
  | check now => exact absurd rfl (hcheck now)
  | sweep now => exact absurd rfl (hsweep now)
  | byte b now => exact s.byte_keepsKeys b now
  | tagSeen now => exact s.decTagSeen_keepsKeys now
  | endFrame now => exact s.endFrame_keepsKeys now
  | validate now => exact s.validate_keepsKeys now
  | dispatch now => exact s.dispatch_keepsKeys now
  | observe tag ant now => exact s.observe_keepsKeys now tag ant
  | enqueue r => exact .of_reg_eq (s.enqueue_reg r)
  | start => exact .of_reg_eq s.start_reg
  | stopAck | endOvf | accOvf | acc | drain | reservedOp3 | other | discard => exact .of_reg_eq rfl

/-- Settles O44. -/
theorem registryKeysLeaveOnlyBySweepOrReset : Obligations.RegistryKeysLeaveOnlyBySweepOrReset := by
  intro i s t h hreset hcheck hsweep
  obtain rfl := eq_effect_of_exec h
  exact effect_keepsKeys s hreset hcheck hsweep

end Sys2Proof.Machine
end

section
/-! PROOFS. The Publish Queue (45_publish_queue): what ENQUEUE does with a queued and with a new key (R211, R212), what DRAIN
publishes (R213), and what a whole sequence of ENQUEUEs into an empty queue leaves there (R215). -/

namespace Sys2Proof.Machine

/-! ### One ENQUEUE -/

theorem keyOf_ne_iff {a b : Report} : keyOf a ≠ keyOf b ↔ ¬(a.tag = b.tag ∧ a.ant = b.ant) := keyOf_eq_iff.not

/-- Where keys are distinct, every other entry has another key. -/
theorem keyOf_ne_of_nodup {pre post : List Report} {e : Report} (h : ((pre ++ e :: post).map keyOf).Nodup) :
    ∀ x ∈ pre ++ post, keyOf x ≠ keyOf e := by
  rw [List.map_append, List.map_cons, List.nodup_middle, List.nodup_cons, ← List.map_append] at h
  exact fun x hx heq => h.1 (heq ▸ List.mem_map_of_mem hx)

section Enqueue

variable {s : State} {r : Report}

/-- The scan stops at the first entry with the key (R210), so the capacity is not asked for. -/
theorem State.enqueue_of_queued {pre post : List Report} {e : Report} (hq : s.q = pre ++ e :: post)
    (hfirst : ∀ x ∈ pre, keyOf x ≠ keyOf r) (hkey : keyOf e = keyOf r) : s.enqueue r = { s with q := pre ++ r :: post } := by
  rw [State.enqueue, replaceReport_eq_some.2 ⟨pre, e, post, hq, hfirst, hkey, rfl⟩]

theorem State.enqueue_of_new (hnew : ∀ x ∈ s.q, keyOf x ≠ keyOf r) :
    s.enqueue r = if s.q.length < s.params.qCap then { s with q := s.q ++ [r] } else s.warn .queueFull := by
  rw [State.enqueue, replaceReport_eq_none.2 hnew]

theorem State.enqueue_params (r : Report) (s : State) : (s.enqueue r).params = s.params := (s.enqueue_keeps r).params_eq

end Enqueue

/-- Settles O45: the entry named is the one the scan finds. -/
theorem enqueueReplacesAQueuedKey : Obligations.EnqueueReplacesAQueuedKey := by
  intro s pre post e r hq hfirst htag hant
  rw [exec_enqueue, State.enqueue_of_queued hq (fun x hx => keyOf_ne_iff.2 (hfirst x hx)) (keyOf_eq_iff.2 ⟨htag, hant⟩)]

/-- Settles O46. -/
theorem enqueueAppendsOrDropsANewKey : Obligations.EnqueueAppendsOrDropsANewKey := by
  intro s r hnew
  rw [exec_enqueue, State.enqueue_of_new fun x hx => keyOf_ne_iff.2 (hnew x hx)]
  refine ⟨fun hroom => ?_, fun hfull => ?_⟩
  · rw [if_pos hroom]
  · rw [if_neg hfull.not_gt]
    rfl

/-! ### DRAIN -/

/-- DRAIN is its two fields: nothing else is written. -/
theorem State.drain_eq (s : State) : s.drain = { s with q := [], out := s.out ++ s.q.map seenEvent } := rfl

/-- Settles O47. -/
theorem drainPublishesEachEntryOnce : Obligations.DrainPublishesEachEntryOnce := by
  intro s
  rw [exec_drain, State.drain_eq]
  rfl

/-! ### A sequence of ENQUEUEs -/

/-- ENQUEUE of each report in turn. -/
def State.enqueueAll (s : State) (rs : List Report) : State := rs.foldl (fun t r => t.enqueue r) s

@[simp] theorem State.enqueueAll_nil (s : State) : s.enqueueAll [] = s := rfl

@[simp] theorem State.enqueueAll_cons (s : State) (r : Report) (rs : List Report) :
    s.enqueueAll (r :: rs) = (s.enqueue r).enqueueAll rs := rfl

theorem State.enqueueAll_snoc (s : State) (rs : List Report) (r : Report) :
    s.enqueueAll (rs ++ [r]) = (s.enqueueAll rs).enqueue r := List.foldl_concat ..

/-- ENQUEUE neither faults nor refuses, so the sequence runs to its end. -/
theorem runInstrs_enqueue (rs : List Report) (s : State) : runInstrs (rs.map .enqueue) s = .next (s.enqueueAll rs) := by
  induction rs generalizing s with
  | nil => rfl
  | cons r rs ih => exact ih (s.enqueue r)

theorem State.enqueueAll_params (s : State) (rs : List Report) : (s.enqueueAll rs).params = s.params := by
  induction rs generalizing s with
  | nil => rfl
  | cons r rs ih => rw [State.enqueueAll_cons, ih, State.enqueue_params]

/-- Reports with new keys that all fit are appended as they come. -/
theorem State.enqueueAll_of_distinct {s : State} {rs : List Report} (hkeys : ((s.q ++ rs).map keyOf).Nodup)
    (hfits : (s.q ++ rs).length ≤ s.params.qCap) : s.enqueueAll rs = { s with q := s.q ++ rs } := by
  induction rs generalizing s with
  | nil => simp
  | cons r rs ih =>
    have hnew : ∀ x ∈ s.q, keyOf x ≠ keyOf r := fun x hx => keyOf_ne_of_nodup hkeys x (List.mem_append_left rs hx)
    have hroom : s.q.length < s.params.qCap := by
      rw [List.length_append, List.length_cons] at hfits
      omega
    have shift : (s.q ++ [r]) ++ rs = s.q ++ r :: rs := (List.append_cons s.q r rs).symm
    rw [State.enqueueAll_cons, State.enqueue_of_new hnew, if_pos hroom, ih (shift ▸ hkeys) (shift ▸ hfits), shift]

/-- Settles O49: the first `Q_CAP` reports fit, and the last one has a new key and finds the queue full. -/
theorem oneReportTooManyIsDropped : Obligations.OneReportTooManyIsDropped := by
  intro s rs hempty hkeys hlen
  obtain rfl | ⟨kept, last, rfl⟩ := rs.eq_nil_or_concat'
  · cases hlen
  · have hkept : kept.length = s.params.qCap := by simpa using hlen
    have hdistinct : (kept.map keyOf).Nodup := hkeys.sublist ((List.sublist_append_left kept [last]).map keyOf)
    have alone : s.q ++ kept = kept := by rw [hempty, List.nil_append]
    have filled : s.enqueueAll kept = { s with q := kept } := by
      rw [State.enqueueAll_of_distinct (alone.symm ▸ hdistinct) (alone.symm ▸ hkept.le), alone]
    have hnew : ∀ x ∈ kept, keyOf x ≠ keyOf last := fun x hx => keyOf_ne_of_nodup hkeys x (List.mem_append_left [] hx)
    rw [runInstrs_enqueue, State.enqueueAll_snoc, filled, State.enqueue_of_new hnew, if_neg hkept.not_lt, ← hkept,
      List.take_left]
    rfl

/-! ### First sightings and latest reports -/

/-- The distinct values of a sequence in the order in which each first occurs. -/
def firstSightings (keys : List (Tag × Byte)) : List (Tag × Byte) := keys.reverse.dedup.reverse

section FirstSightings

variable {keys : List (Tag × Byte)} {k : Tag × Byte}

theorem mem_firstSightings : k ∈ firstSightings keys ↔ k ∈ keys := by
  rw [firstSightings, List.mem_reverse, List.mem_dedup, List.mem_reverse]

theorem firstSightings_nodup (keys : List (Tag × Byte)) : (firstSightings keys).Nodup :=
  List.nodup_reverse.2 (List.nodup_dedup _)

theorem firstSightings_snoc_of_mem (h : k ∈ keys) : firstSightings (keys ++ [k]) = firstSightings keys := by
  rw [firstSightings, List.reverse_concat, List.dedup_cons_of_mem (List.mem_reverse.2 h), firstSightings]

theorem firstSightings_snoc_of_notMem (h : k ∉ keys) : firstSightings (keys ++ [k]) = firstSightings keys ++ [k] := by
  rw [firstSightings, List.reverse_concat, List.dedup_cons_of_notMem (mt List.mem_reverse.1 h), List.reverse_cons,
    firstSightings]

/-- A full queue stays full of the same keys, whatever comes next. -/
theorem firstSightings_snoc_take {n : Nat} (h : n ≤ (firstSightings keys).length) :
    (firstSightings (keys ++ [k])).take n = (firstSightings keys).take n := by
  by_cases hk : k ∈ keys
  · rw [firstSightings_snoc_of_mem hk]
  · rw [firstSightings_snoc_of_notMem hk, List.take_append_of_le_length h]

end FirstSightings

/-- The most recent report of a sequence that has the key. -/
def latestReport (rs : List Report) (k : Tag × Byte) : Option Report := rs.reverse.find? fun x => decide (keyOf x = k)

theorem latestReport_snoc_self (rs : List Report) (r : Report) : latestReport (rs ++ [r]) (keyOf r) = some r := by
  simp [latestReport]

theorem latestReport_snoc_of_ne {rs : List Report} {r : Report} {k : Tag × Byte} (h : keyOf r ≠ k) :
    latestReport (rs ++ [r]) k = latestReport rs k := by
  simp [latestReport, h]

/-! ### The queue that a sequence of reports leaves -/

/-- The queue `q` of capacity `cap` is what the reports `rs` leave in an empty one (R215 (a)). -/
structure QueueOf (cap : Nat) (rs q : List Report) : Prop where
  keys_eq : q.map keyOf = (firstSightings (rs.map keyOf)).take cap
  latest : ∀ x ∈ q, latestReport rs (keyOf x) = some x

section QueueOf

variable {cap : Nat} {rs q pre post : List Report} {e r : Report}

theorem QueueOf.nil (cap : Nat) : QueueOf cap [] [] := ⟨List.take_nil.symm, List.forall_mem_nil _⟩

theorem QueueOf.keys_nodup (h : QueueOf cap rs q) : (q.map keyOf).Nodup := by
  rw [h.keys_eq]
  exact (firstSightings_nodup _).sublist (List.take_sublist ..)

theorem QueueOf.length_le (h : QueueOf cap rs q) : q.length ≤ (firstSightings (rs.map keyOf)).length := by
  rw [← q.length_map keyOf, h.keys_eq]
  exact List.length_take_le' ..

/-- A queue with room to spare holds every key seen so far. -/
theorem QueueOf.keys_eq_of_room (h : QueueOf cap rs q) (hroom : q.length < cap) :
    q.map keyOf = firstSightings (rs.map keyOf) := by
  have hlen : q.length = min cap (firstSightings (rs.map keyOf)).length := by
    rw [← q.length_map keyOf, h.keys_eq, List.length_take]
  rw [h.keys_eq, List.take_of_length_le (by omega)]

/-- A report with another key leaves the latest report of a queued key what it was. -/
theorem QueueOf.latest_of_ne (h : QueueOf cap rs q) {x : Report} (hx : x ∈ q) (hne : keyOf x ≠ keyOf r) :
    latestReport (rs ++ [r]) (keyOf x) = some x := by
  rw [latestReport_snoc_of_ne hne.symm, h.latest x hx]

theorem QueueOf.replace (h : QueueOf cap rs (pre ++ e :: post)) (hkey : keyOf e = keyOf r) :
    QueueOf cap (rs ++ [r]) (pre ++ r :: post) where
  keys_eq := by
    have hseen : keyOf r ∈ rs.map keyOf := by
      refine mem_firstSightings.1 (List.mem_of_mem_take (i := cap) ?_)
      rw [← h.keys_eq, ← hkey]
      exact List.mem_map_of_mem (by simp)
    rw [List.map_append (l₁ := rs), List.map_singleton, firstSightings_snoc_of_mem hseen, ← h.keys_eq]
    simp [hkey]
  latest := by
    have others : ∀ x ∈ pre ++ post, keyOf x ≠ keyOf r := hkey ▸ keyOf_ne_of_nodup h.keys_nodup
    intro x hx
    rcases List.mem_cons.1 (List.perm_middle.mem_iff.1 hx) with rfl | hother
    · exact latestReport_snoc_self rs x
    · exact h.latest_of_ne (List.perm_middle.mem_iff.2 (List.mem_cons_of_mem e hother)) (others x hother)

theorem QueueOf.append (h : QueueOf cap rs q) (hnew : ∀ x ∈ q, keyOf x ≠ keyOf r) (hroom : q.length < cap) :
    QueueOf cap (rs ++ [r]) (q ++ [r]) where
  keys_eq := by
    have hall := h.keys_eq_of_room hroom
    have hunseen : keyOf r ∉ rs.map keyOf := by
      rw [← mem_firstSightings, ← hall]
      simpa using hnew
    rw [List.map_append, List.map_append, List.map_singleton, firstSightings_snoc_of_notMem hunseen, ← hall,
      List.take_of_length_le (by simpa using hroom)]
  latest := by
    refine List.forall_mem_append.2 ⟨fun x hx => h.latest_of_ne hx (hnew x hx), ?_⟩
    exact List.forall_mem_singleton.2 (latestReport_snoc_self rs r)

theorem QueueOf.drop (h : QueueOf cap rs q) (hnew : ∀ x ∈ q, keyOf x ≠ keyOf r) (hfull : cap ≤ q.length) :
    QueueOf cap (rs ++ [r]) q where
  keys_eq := by
    rw [List.map_append, List.map_singleton, firstSightings_snoc_take (hfull.trans h.length_le), h.keys_eq]
  latest := fun x hx => h.latest_of_ne hx (hnew x hx)

end QueueOf

/-- Each of ENQUEUE's three cases (R211, R212) keeps the queue what the reports so far leave. -/
theorem QueueOf.enqueue {s : State} {rs : List Report} (h : QueueOf s.params.qCap rs s.q) (r : Report) :
    QueueOf s.params.qCap (rs ++ [r]) (s.enqueue r).q := by
  rcases s.enqueue_cases r with ⟨pre, e, post, hq, -, hkey, heq⟩ | ⟨hnew, hroom, heq⟩ | ⟨hnew, hfull, heq⟩ <;> rw [heq]
  · exact (hq ▸ h).replace hkey
  · exact h.append hnew hroom
  · exact h.drop hnew hfull

theorem State.enqueueAll_queueOf {s : State} (hempty : s.q = []) (rs : List Report) :
    QueueOf s.params.qCap rs (s.enqueueAll rs).q := by
  induction rs using List.reverseRecOn with
  | nil =>
    rw [State.enqueueAll_nil, hempty]
    exact .nil _
  | append_singleton rs r ih =>
    rw [State.enqueueAll_snoc]
    rw [← s.enqueueAll_params rs] at ih ⊢
    exact ih.enqueue r

/-- Settles O48: the queue's keys and reports are `QueueOf` of the whole sequence. -/
theorem drainPublishesTheLatestReportOfEachKey : Obligations.DrainPublishesTheLatestReportOfEachKey := by
  intro s rs hempty
  obtain ⟨hkeys, hlatest⟩ := State.enqueueAll_queueOf hempty rs
  exact ⟨s.enqueueAll rs, (s.enqueueAll rs).drain, runInstrs_enqueue rs s, exec_drain _, hkeys, hlatest,
    State.drain_q _, State.drain_out _⟩

end Sys2Proof.Machine
end

section
/-! PROOFS. What the block has in place of exceptions (60_exceptions): under the invariants every command but the reserved word
completes (R230), and the events of one command come in a fixed order (R234). -/

namespace Sys2Proof.Machine

/-! ### Steps under the invariants -/

/-- Under the invariants a step answers a next state, or refuses the reserved word at the head of the port: the one outcome that
could be a fault, BYTE's, is behind a bounds check that the invariants pass. -/
theorem Inv.step_outcomes {s : State} (h : Inv s) :
    (∃ t, step s = .next t) ∨ ((∃ c ∈ s.input.head?, c.op = 3) ∧ step s = .refused .reservedCommand) := by
  rcases step_cases s with ⟨-, heq⟩ | ⟨c, rest, hinput, heq⟩ <;> rw [heq]
  · exact .inl ⟨s, rfl⟩
  · have taken := h.withInput rest
    rcases decodeCommand_cases s.params.clockW c with ⟨-, hdec⟩ | ⟨-, hdec⟩ | ⟨-, hdec⟩ | ⟨hop, hdec⟩ <;> rw [hdec]
    · exact .inl ⟨_, exec_reset _⟩
    · exact .inl ⟨_, exec_byte_of_path _ rfl (taken.selectedPath_inside c.data)⟩
    · exact .inl ⟨_, exec_check _ _⟩
    · exact .inr ⟨⟨c, by rw [hinput]; rfl, hop⟩, exec_reservedOp3 _⟩

/-- Settles O53. -/
theorem admittedCommandsAlwaysComplete : Obligations.AdmittedCommandsAlwaysComplete := by
  intro s h
  rcases h.step_outcomes with ⟨t, hnext⟩ | ⟨⟨c, hhead, hop⟩, hrefused⟩
  · exact ⟨fun _ => ⟨t, hnext⟩, fun f hf => (nomatch hnext.symm.trans hf), fun r hr => (nomatch hnext.symm.trans hr)⟩
  · refine ⟨fun hadm => absurd hop (hadm c hhead), fun f hf => (nomatch hrefused.symm.trans hf), fun r hr => ?_⟩
    exact (Host.Outcome.refused.inj (hrefused.symm.trans hr)).symm

/-! ### The events of a BYTE -/

/-- The event sequences that 60_exceptions R234 admits for one BYTE. -/
def ByteEvents (evs : List Event) : Prop :=
  evs = [] ∨ (∃ code, code ≠ .regFull ∧ code ≠ .queueFull ∧ evs = [.warn code]) ∨
    evs = [.warn .regFull] ∨ evs = [.warn .queueFull] ∨ evs = [.warn .regFull, .warn .queueFull]

theorem ByteEvents.single {code : WarnCode} (hreg : code ≠ .regFull) (hqueue : code ≠ .queueFull) : ByteEvents [.warn code] :=
  .inr (.inl ⟨code, hreg, hqueue, rfl⟩)

/-- Neither of the assembler's own two warnings is among the events. -/
def AssemblerSilent (evs : List Event) : Prop := Event.warn .asmOverflow ∉ evs ∧ Event.warn .asmResync ∉ evs

/-- What a completed frame can emit, from VALIDATE down to the caches. -/
structure FrameEvents (evs : List Event) : Prop where
  ofByte : ByteEvents evs
  silent : AssemblerSilent evs

theorem FrameEvents.nil : FrameEvents [] := ⟨.inl rfl, List.not_mem_nil, List.not_mem_nil⟩

/-- The registry is updated before the queue (40_host_step R111), so its warning comes first. -/
theorem FrameEvents.caches {regWarns queueWarns : List Event} (hreg : regWarns = [] ∨ regWarns = [.warn .regFull])
    (hqueue : queueWarns = [] ∨ queueWarns = [.warn .queueFull]) : FrameEvents (regWarns ++ queueWarns) := by
  rcases hreg with rfl | rfl <;> rcases hqueue with rfl | rfl
  · exact .nil
  · exact ⟨.inr (.inr (.inr (.inl rfl))), by decide, by decide⟩
  · exact ⟨.inr (.inr (.inl rfl)), by decide, by decide⟩
  · exact ⟨.inr (.inr (.inr (.inr rfl))), by decide, by decide⟩

/-- Of the eight warning codes the validator reports four (42_frame_validator R145). -/
theorem State.verdict_mem {s : State} {code : WarnCode} (h : s.verdict = some code) :
    code ∈ [WarnCode.rejStart, .rejEnd, .rejLength, .rejChecksum] := by
  rcases s.verdict_cases with ⟨-, hv⟩ | ⟨-, -, hv⟩ | ⟨-, -, -, hv⟩ | ⟨-, -, -, -, hv⟩ | ⟨-, -, -, -, hv⟩ <;>
    cases h.symm.trans hv <;> decide

/-- A reject is none of the other blocks' warnings. -/
theorem reject_ne_others : ∀ code ∈ [WarnCode.rejStart, .rejEnd, .rejLength, .rejChecksum],
    code ≠ .regFull ∧ code ≠ .queueFull ∧ code ≠ .asmOverflow ∧ code ≠ .asmResync := by decide

theorem FrameEvents.reject {s : State} {code : WarnCode} (h : s.verdict = some code) : FrameEvents [.warn code] := by
  obtain ⟨hreg, hqueue, hovf, hresync⟩ := reject_ne_others code (State.verdict_mem h)
  exact ⟨.single hreg hqueue, by simp [hovf.symm], by simp [hresync.symm]⟩

section Emitted

variable (s : State) (b : Byte) (now : Nat)

theorem State.dispatch_events : ∃ evs, (s.dispatch now).out = s.out ++ evs ∧ FrameEvents evs := by
  rcases s.dispatch_cases now with ⟨-, heq⟩ | ⟨-, heq⟩ | ⟨-, -, heq⟩ <;> rw [heq]
  · obtain ⟨reg', q', regWarns, queueWarns, hframe, hreg, hqueue⟩ := s.decTagSeen_frame now
    exact ⟨regWarns ++ queueWarns, by rw [hframe, List.append_assoc], .caches hreg hqueue⟩
  · exact ⟨[], by rw [State.decStopAck_out, List.append_nil], .nil⟩
  · exact ⟨[], (List.append_nil _).symm, .nil⟩

theorem State.validate_events : ∃ evs, (s.validate now).out = s.out ++ evs ∧ FrameEvents evs := by
  rcases s.validate_cases now with ⟨code, hcode, heq⟩ | ⟨-, heq⟩ <;> rw [heq]
  · exact ⟨[.warn code], s.warn_out code, .reject hcode⟩
  · exact s.dispatch_events now

/-- START can only warn of a resynchronisation (41_frame_assembler R120). -/
theorem State.start_events : ∃ evs, s.start.out = s.out ++ evs ∧ ByteEvents evs := by
  refine ⟨_, s.start_out, ?_⟩
  cases s.asm
  · exact .inl rfl
  · exact .single (by decide) (by decide)

/-- Of the six paths only END leaves an assembly that was under way, and END's events are those of the frame it completes. -/
theorem State.runPath_events (path : AssemblerPath) :
    ∃ evs, (s.runPath path b now).out = s.out ++ evs ∧ ByteEvents evs ∧
      ((s.runPath path b now).asm = false ∧ s.asm = true → AssemblerSilent evs) := by
  cases path with
  | start =>
    obtain ⟨evs, hout, hevs⟩ := s.start_events
    exact ⟨evs, hout, hevs, fun ⟨hidle, _⟩ => nomatch hidle⟩
  | endFrame =>
    obtain ⟨evs, hout, hevs⟩ := s.completeFrame.validate_events now
    exact ⟨evs, hout, hevs.ofByte, fun _ => hevs.silent⟩
  | endOvf =>
    exact ⟨[.warn .asmOverflow], s.endOvf_out, .single (by decide) (by decide),
      fun ⟨hidle, hbusy⟩ => absurd (hidle.symm.trans hbusy) Bool.false_ne_true⟩
  | accOvf =>
    exact ⟨[.warn .asmOverflow], s.accOvf_out b, .single (by decide) (by decide),
      fun ⟨hidle, hbusy⟩ => absurd (hidle.symm.trans hbusy) Bool.false_ne_true⟩
  | acc | discard => exact ⟨[], (List.append_nil _).symm, .inl rfl, fun _ => FrameEvents.nil.silent⟩

/-! ### The events of a CHECK -/

/-- DRAIN publishes before SWEEP does, and SWEEP the stale entries alone (40_host_step R103, 44_tag_registry R194). -/
theorem State.check_events : ∃ gone : List RegEntry, gone.Sublist s.reg ∧
    ((s.check now).out = s.out ∨ (s.check now).out = s.out ++ s.q.map seenEvent ++ gone.map goneEvent) := by
  refine ⟨s.reg.filter (stale s.params now), List.filter_sublist, ?_⟩
  cases hdue : s.flushDue now with
  | false => exact .inl (by rw [State.check_of_not_due hdue])
  | true => exact .inr (by rw [State.check_of_due hdue]; rfl)

end Emitted

/-- Settles O55: BYTE's last act, `prev <- b`, touches neither `asm` nor the output. -/
theorem eventsOfOneCommandComeInOrder : Obligations.EventsOfOneCommandComeInOrder := by
  refine ⟨fun s t b now h => ?byte, fun s t now h => ?check, fun s t h => ?reset⟩ <;> obtain rfl := eq_effect_of_exec h
  case byte => exact s.runPath_events b now (s.selectPath b)
  case check => exact s.check_events now
  case reset => exact s.resetCommand_out

end Sys2Proof.Machine
end

section
/-! PROOFS. The first flush after RESET (70_reset_and_hazards R262): RESET empties both caches, so a CHECK that fires has nothing to
publish, and it sets `lastFlush` to 0, so the elapsed time is the CHECK's own `now`. -/

namespace Sys2Proof.Machine

/-- DRAIN of an empty queue does nothing (45_publish_queue R213). -/
theorem State.drain_of_q_empty {s : State} (hq : s.q = []) : s.drain = s := by
  rw [State.drain_eq, hq, List.map_nil, List.append_nil, ← hq]

/-- SWEEP of an empty registry does nothing (44_tag_registry R194). -/
theorem State.sweep_of_reg_empty {s : State} (hreg : s.reg = []) (now : Nat) : s.sweep now = s := by
  rw [State.sweep, State.emitAll, hreg, List.filter_nil, List.filter_nil, List.map_nil, List.append_nil, ← hreg]

/-- With both caches empty all that is left of a CHECK is its write of `lastFlush` (40_host_step R103). -/
theorem State.check_of_caches_empty {s : State} (hq : s.q = []) (hreg : s.reg = []) (now : Nat) :
    s.check now = if s.flushDue now then { s with lastFlush := now } else s := by
  rw [State.check, State.drain_of_q_empty hq, State.sweep_of_reg_empty hreg]

/-- A clock reading is its own age since 0. -/
theorem age_since_zero {clockW now : Nat} (hnow : now < 2 ^ clockW) : age clockW now 0 = now := by
  have elapsed := age_add clockW 0 now
  rwa [Nat.zero_add, Nat.zero_mod, Nat.mod_eq_of_lt hnow] at elapsed

/-- After RESET the comparator of 40_host_step R104 compares the clock reading itself. -/
theorem State.flushDue_resetCommand {s : State} {now : Nat} (hnow : now < 2 ^ s.params.clockW) :
    s.resetCommand.flushDue now = decide (s.params.flushInterval ≤ now) := by
  rw [State.flushDue, State.resetCommand_params, State.resetCommand_lastFlush, age_since_zero hnow]

/-- Settles O16. -/
theorem firstCheckAfterReset : Obligations.FirstCheckAfterReset := by
  intro s now hnow
  refine ⟨s.resetCommand, exec_reset s, ?_⟩
  rw [exec_check, State.check_of_caches_empty s.resetCommand_q s.resetCommand_reg, State.flushDue_resetCommand hnow]
  simp only [decide_eq_true_eq]

end Sys2Proof.Machine
end
